-- ==== Sys2Proof/Word.lean ====
section
/-! DEFINITION. The word types of the MARU engine (00_scope.md R9, R10): every value is unsigned. -/

namespace Sys2Proof

/-- One byte of a byte string (R12). -/
abbrev Byte := BitVec 8

/-- A register, a bus value, a 32-bit cipher word (R9, R11). -/
abbrev Word := BitVec 32

/-- A 64-bit cipher word, or a pair of registers `high:low` (R10, R11). -/
abbrev Word64 := BitVec 64

/-- The OP field of a command word, STATUS.LASTOP and STATUS.ERRCODE are 4 bits wide (R24, R70). -/
abbrev Nibble := BitVec 4

end Sys2Proof
end

