-- ==== Sys2Proof/Config.lean ====
section
/-! DEFINITION. What is fixed for one engine: the sizes of 00_scope.md R7, the identity constant (R22),
and the parameters of R8. The open parameters are opaque: no proof can see a value of theirs. -/

namespace Sys2Proof

/-- Parameter BASE of R8 is a multiple of 0x100: this is the multiplier. OPEN, the platform's (D2, I10);
notes/assumptions/4. -/
opaque Config.basePage : Nat

/-- BASE: the base address of the 256-byte register window (R8, R50). -/
def Config.base : Nat := 0x100 * Config.basePage

/-- Parameter WCONST_B of R8. OPEN: the source gives no value (N1, D8, I3); notes/assumptions/3. -/
opaque Config.wconstB : Word64

/-- Parameter WCONST_D of R8. OPEN: the source gives no value (N1, D8, I3); notes/assumptions/3. -/
opaque Config.wconstD : Word64

/-- The window is 256 bytes (R9, R50). -/
def Config.windowBytes : Nat := 0x100

/-- ID[31:0], "MARU" (R22). -/
def Config.idValue : Word := 0x4D415255

/-- M, the maximum hashed string length in bytes (R7). -/
def Config.maxMessage : Nat := 64

/-- MAC_CAP, the maximum MAC message length in bytes (R7, R125). -/
def Config.macCap : Nat := 15

/-- B_N and B_WC: the narrow block and the wide Chaskey block, in bytes (R7). -/
def Config.block16 : Nat := 16

/-- B_WS: the wide SPECK block, in bytes (R7). -/
def Config.block32 : Nat := 32

/-- Round counts of the three ciphers (R7, R85, R88, R91). -/
def Config.speck64Rounds : Nat := 27

/-- See `Config.speck64Rounds`. -/
def Config.speck128Rounds : Nat := 34

/-- See `Config.speck64Rounds`. -/
def Config.chaskeyRounds : Nat := 12

end Sys2Proof
end

