-- ==== Sys2Proof/Machine/Bits.lean ====
section
/-! DEFINITION. The word and byte-string primitives of 00_scope.md R11 and R12. -/

namespace Sys2Proof.Machine

/-- `rotl(a, r)` on words of `w` bits, for 0 < r < w (R11). -/
def rotl {w : Nat} (a : BitVec w) (r : Nat) : BitVec w := (a <<< r) ||| (a >>> (w - r))

/-- `rotr(a, r)` is `rotl(a, N - r)` (R11). -/
def rotr {w : Nat} (a : BitVec w) (r : Nat) : BitVec w := rotl a (w - r)

/-- The low word of a 64-bit value, `v[31:0]` (R10). -/
def lo64 (v : Word64) : Word := v.extractLsb' 0 32

/-- The high word of a 64-bit value, `v[63:32]` (R10). -/
def hi64 (v : Word64) : Word := v.extractLsb' 32 32

/-- `high:low` as one 64-bit value (R10). -/
def pair64 (hi lo : Word) : Word64 := hi ++ lo

/-- `zeros(n)` (R12). -/
def zeros (n : Nat) : List Byte := List.replicate n 0

/-- `s[a .. a+n-1]` (R12). -/
def slice (s : List Byte) (a n : Nat) : List Byte := (s.drop a).take n

/-- `s[a]`; every use is inside the string. -/
def byteAt (s : List Byte) (a : Nat) : Byte := s.getD a 0

/-- `LE32(s[a..a+3])` (R12, R53). -/
def le32 (s : List Byte) (a : Nat) : Word :=
  byteAt s (a + 3) ++ byteAt s (a + 2) ++ byteAt s (a + 1) ++ byteAt s a

/-- `LE64(s[a..a+7])` (R12, R53). -/
def le64 (s : List Byte) (a : Nat) : Word64 := pair64 (le32 s (a + 4)) (le32 s a)

/-- `bytesLE32(w)`: byte 0 is `w[7:0]` (R12, R53). -/
def bytesLE32 (w : Word) : List Byte :=
  [w.extractLsb' 0 8, w.extractLsb' 8 8, w.extractLsb' 16 8, w.extractLsb' 24 8]

/-- `bytesLE64(w)` (R12, R53). -/
def bytesLE64 (w : Word64) : List Byte := bytesLE32 (lo64 w) ++ bytesLE32 (hi64 w)

end Sys2Proof.Machine
end

