-- ==== Sys2Proof/Syntax.lean ====
section
/-! DEFINITION. The commands of the engine (30_encoding.md R72): one constructor per row of
spec/opcode_table.json. A command word names no register and carries no immediate (R73, R74), so no
constructor has a field. -/

namespace Sys2Proof

/-- The seven commands (R72). -/
inductive Instr where
  /-- SPECK-64/128 encrypt (R94). -/
  | enc64
  /-- SPECK-128/256 encrypt (R97). -/
  | enc128
  /-- Chaskey-128/128, 12 rounds, encrypt (R100). -/
  | encck
  /-- Narrow iterated hash (R112). -/
  | hashn
  /-- Wide iterated hash, SPECK-128/256 (R115). -/
  | hashws
  /-- Wide iterated hash, Chaskey (R118). -/
  | hashwc
  /-- Keyed two-block MAC (R129). -/
  | macn
deriving DecidableEq, Repr

end Sys2Proof
end

