-- ==== Sys2Proof/Machine/HostSyntax.lean ====
section
/-! DEFINITION. The register names of the window (10_state.md R21) and the statements of a host program
(30_encoding.md R77): the host bus masters of 00_scope.md R16(a) run these against the engine. A host's
variables and labels are numbered instead of named (notes/assumptions/7). -/

namespace Sys2Proof.Machine

/-- The registers of R21, each at exactly one offset (R39). -/
inductive Reg where
  | id
  | ctrl
  | status
  | cmd
  | seed (i : Fin 2)
  | info
  | data (i : Fin 4)
  | res (i : Fin 4)
  | key (i : Fin 8)
  | wcb (i : Fin 2)
  | wcd (i : Fin 2)
  | msg (i : Fin 16)
deriving DecidableEq, Repr

/-- The value operand of a write: "val is an imm32 or a host variable name" (R77). -/
inductive HostVal where
  | imm (w : Word)
  | var (x : Nat)
deriving DecidableEq, Repr

/-- The statements of a host program (R77), and three that the spec's own sequences use beside them: a bus
access of any width at any address (R14, T67), and the wait for irq of P5 (notes/assumptions/8). -/
inductive HostStmt where
  /-- `WR <reg>, <val>`. -/
  | wr (r : Reg) (v : HostVal)
  /-- `RD <reg> -> <name>`. -/
  | rd (r : Reg) (x : Nat)
  /-- `<MNEMONIC>`: `WR CMD, <opcode>`. -/
  | cmd (i : Instr)
  /-- `label:`. -/
  | label (l : Nat)
  /-- `BNZ <name>, <mask>, <label>`. -/
  | bnz (x : Nat) (mask : Word) (l : Nat)
  /-- `BZ <name>, <mask>, <label>`. -/
  | bz (x : Nat) (mask : Word) (l : Nat)
  /-- `BusRead(addr, size)`, the value going to a host variable (R14). -/
  | busRead (addr size x : Nat)
  /-- `BusWrite(addr, size, val)` (R14). -/
  | busWrite (addr size : Nat) (v : HostVal)
  /-- The host waits until irq = 1 (R165(c), P5). -/
  | waitIrq
deriving DecidableEq, Repr

end Sys2Proof.Machine
end

