-- ==== Sys2Proof/Machine/State.lean ====
section
/-! DEFINITION. The state (10_state.md): the engine's registers and hidden state, the host agents of
00_scope.md R16(a), and the interleaving still to come (R16, 20_memory.md R59). Plain data. -/

namespace Sys2Proof.Machine

/-- Why a host agent stops (R145). The engine itself never faults (R135). -/
inductive Fault where
  /-- `raise BusError(off)` (R54): recorded by a host's own read or write in the window that is not 32
  bits wide or not 4-byte aligned. Safe: the spec says that this host takes no further step (R145). -/
  | busError (off : Nat)
deriving DecidableEq, Repr

/-- Why a step has no meaning in this model. No command is refused. -/
inductive Refusal where
  /-- Raised by a command that `exec` has no meaning for; none is left. Safe: the machine stops. -/
  | notModelled (mnemonic : String)
  /-- Raised by a host's access to an address outside the window: "no rule of this spec applies to it"
  (R52). Safe: the machine stops. -/
  | outsideWindow (addr : Nat)
  /-- Raised by a taken branch of a host program to a label the program does not define (R77 gives it no
  meaning; `hostProgramWf` rules it out). Safe: the machine stops. -/
  | undefinedLabel (l : Nat)
deriving DecidableEq, Repr

/-- The input registers (R30 to R33). The snapshot S of R41 is a copy of exactly these. -/
structure Inputs where
  seed : Vector Word 2
  data : Vector Word 4
  key : Vector Word 8
  msg : Vector Word 16
deriving DecidableEq, Repr

/-- The fields of STATUS (R24); its reserved bits read as zero. -/
structure Status where
  busy : Bool
  done : Bool
  err : Bool
  errcode : Nibble
  lastop : Nibble
deriving DecidableEq, Repr

/-- The fields of INFO (R36); its reserved bits read as zero. -/
structure Info where
  len : BitVec 7
  nblk : BitVec 4
deriving DecidableEq, Repr

/-- The in-flight record (op, S) of R42: the accepted command and its input snapshot (R41). -/
structure InFlight where
  op : Instr
  snap : Inputs
deriving DecidableEq, Repr

/-- All the state of the engine (R46). ID and WCB0..WCD1 are constants (Config), CMD holds no state (R34),
irq is not stored (R44), and the working state of R43 lives inside one command's result function. -/
structure Engine where
  /-- CTRL.IE (R23). -/
  ie : Bool
  /-- STATUS (R24). -/
  status : Status
  /-- SEED0..1, DATA0..3, KEY0..7, MSG0..15 (R30 to R33). -/
  inputs : Inputs
  /-- RES0..RES3 (R35). -/
  res : Vector Word 4
  /-- INFO (R36). -/
  info : Info
  /-- The in-flight record, present while a command is in flight (R42). -/
  inflight : Option InFlight
deriving DecidableEq, Repr

/-- A host bus master (R16(a)) running a host program (R77). -/
structure HostAgent where
  prog : List HostStmt
  /-- Index of the next statement; at or past the end the program has stopped (R156). -/
  pc : Nat
  /-- Host variables, a sorted list without zero entries; an unlisted one reads 0 (notes/assumptions/7). -/
  vars : List (Nat × Word)
  /-- The fault that stopped this host, if any (R145). -/
  fault : Option Fault
deriving DecidableEq, Repr

/-- Which atomic step comes next in the total order of R59. -/
inductive Turn where
  /-- Host `h` runs its next statement. -/
  | host (h : Nat)
  /-- The engine's completion, if it is enabled (R138). -/
  | engine
  /-- The platform's reset (R160). -/
  | reset
deriving DecidableEq, Repr

/-- The whole machine. `turns` is the part of the interleaving that is still to come: every finite list is a
state, so a claim over all states covers every interleaving (R16; notes/assumptions/5). -/
structure State where
  engine : Engine
  hosts : List HostAgent
  turns : List Turn
deriving DecidableEq, Repr

/-- All input registers are zero after reset (R46). -/
def Inputs.zero : Inputs where
  seed := #v[0, 0]
  data := #v[0, 0, 0, 0]
  key := #v[0, 0, 0, 0, 0, 0, 0, 0]
  msg := #v[0, 0, 0, 0, 0, 0, 0, 0, 0, 0, 0, 0, 0, 0, 0, 0]

/-- The engine after reset, the table of R46. -/
def Engine.reset : Engine where
  ie := false
  status := { busy := false, done := false, err := false, errcode := 0, lastop := 0 }
  inputs := Inputs.zero
  res := #v[0, 0, 0, 0]
  info := { len := 0, nblk := 0 }
  inflight := none

/-- The machine right after reset: the engine as R46 says, with no host agent loaded and no interleaving
fixed (notes/assumptions/6). -/
def State.reset : State where
  engine := Engine.reset
  hosts := []
  turns := []

/-- The state with another engine; hosts and turns stay. -/
def State.withEngine (s : State) (e : Engine) : State := { s with engine := e }

/-- The state with its engine changed by `f`; hosts and turns stay. -/
def State.mapEngine (s : State) (f : Engine → Engine) : State := s.withEngine (f s.engine)

end Sys2Proof.Machine
end

