-- ==== Sys2Proof/Machine/Operands.lean ====
section
/-! DEFINITION. How a command reads its implicit operands from the snapshot S (30_encoding.md R73, R74). -/

namespace Sys2Proof.Machine

/-- Four words of one width: the key words k0..k3 of every cipher (R107) and Chaskey's block (R91). -/
structure Quad (w : Nat) where
  q0 : BitVec w
  q1 : BitVec w
  q2 : BitVec w
  q3 : BitVec w
deriving DecidableEq, Repr

/-- Two 64-bit words: Speck128's block (x0, x1) (R88) and the wide chaining value (H0, H1) (R115). -/
structure Pair where
  h0 : Word64
  h1 : Word64
deriving DecidableEq, Repr

/-- `MSGB(S, i)`, byte i of the message buffer, for 0 <= i <= 63 (R30). No rule reads another index. -/
def msgByte (S : Inputs) (i : Nat) : Byte :=
  ((S.msg[i / 4]?).getD 0).extractLsb' (8 * (i % 4)) 8

/-- The message bytes 0 .. L-1. -/
def msgBytes (S : Inputs) (L : Nat) : List Byte := (List.range L).map (msgByte S)

/-- The scan of `EffLen` from index `L` on, with `fuel` indexes left before the cap (R105). -/
def scanLength (S : Inputs) : Nat → Nat → Nat
  | 0, L => L
  | fuel + 1, L => if msgByte S L = 0 then L else scanLength S fuel (L + 1)

/-- `EffLen(S, cap)`: the index of the first zero byte below cap, or cap (R105). -/
def effLen (S : Inputs) (cap : Nat) : Nat := scanLength S cap 0

/-- `SEED1:SEED0`, the 64-bit seed or secret (R31). -/
def seed64 (S : Inputs) : Word64 := pair64 S.seed[1] S.seed[0]

/-- The narrow IV, `zext_64(SEED0)` (R31, R114). -/
def narrowIv (S : Inputs) : Word64 := pair64 0 S.seed[0]

/-- ENC64's plaintext `DATA1 : DATA0` (R94). -/
def dataBlock64 (S : Inputs) : Word64 := pair64 S.data[1] S.data[0]

/-- ENC128's plaintext, x0 = DATA1:DATA0 and x1 = DATA3:DATA2 (R97). -/
def dataPair (S : Inputs) : Pair :=
  { h0 := pair64 S.data[1] S.data[0], h1 := pair64 S.data[3] S.data[2] }

/-- ENCCK's plaintext words DATA0..DATA3 (R100). -/
def dataQuad (S : Inputs) : Quad 32 :=
  { q0 := S.data[0], q1 := S.data[1], q2 := S.data[2], q3 := S.data[3] }

/-- The key words KEY0..KEY3 of ENC64 and ENCCK (R94, R100). -/
def keyQuad32 (S : Inputs) : Quad 32 :=
  { q0 := S.key[0], q1 := S.key[1], q2 := S.key[2], q3 := S.key[3] }

/-- The key words of ENC128, kj = KEY(2j+1):KEY(2j) (R97). -/
def keyQuad64 (S : Inputs) : Quad 64 :=
  { q0 := pair64 S.key[1] S.key[0], q1 := pair64 S.key[3] S.key[2]
    q2 := pair64 S.key[5] S.key[4], q3 := pair64 S.key[7] S.key[6] }

/-- A 16-byte block as four 32-bit key words (R107); `KW` of R127. -/
def keyWords32 (b : List Byte) : Quad 32 :=
  { q0 := le32 b 0, q1 := le32 b 4, q2 := le32 b 8, q3 := le32 b 12 }

/-- A 32-byte block as four 64-bit key words (R107). -/
def keyWords64 (b : List Byte) : Quad 64 :=
  { q0 := le64 b 0, q1 := le64 b 8, q2 := le64 b 16, q3 := le64 b 24 }

end Sys2Proof.Machine
end

