-- ==== Sys2Proof/Machine/Ciphers.lean ====
section
/-! DEFINITION. The three block ciphers (40_ciphers.md R85 to R93): pure total functions (R15). -/

namespace Sys2Proof.Machine

/-- The block words x0, x1 and the key-schedule words k0..k3 of SPECK between two rounds (R85, R88). -/
structure SpeckState (w : Nat) where
  x0 : BitVec w
  x1 : BitVec w
  k0 : BitVec w
  k1 : BitVec w
  k2 : BitVec w
  k3 : BitVec w
deriving DecidableEq, Repr

/-- Round `i` of SPECK, the same on 32-bit words (R85) and on 64-bit words (R88): the key is XORed into x0
before x1 is updated (C3, D9), and the new schedule word enters at k3 (N15). -/
def speckRound {w : Nat} (i : Nat) (t : SpeckState w) : SpeckState w :=
  let x0 := (rotr t.x0 8 + t.x1) ^^^ t.k0
  let x1 := rotl t.x1 3 ^^^ x0
  let n := (rotr t.k1 8 + t.k0) ^^^ BitVec.ofNat w i
  { x0 := x0, x1 := x1, k0 := rotl t.k0 3 ^^^ n, k1 := t.k2, k2 := t.k3, k3 := n }

/-- `n` rounds of SPECK, the first with round index `i`. -/
def speckRounds {w : Nat} : Nat → Nat → SpeckState w → SpeckState w
  | 0, _, t => t
  | n + 1, i, t => speckRounds n (i + 1) (speckRound i t)

/-- SPECK's start: block words and key words. -/
def speckStart {w : Nat} (x0 x1 : BitVec w) (k : Quad w) : SpeckState w :=
  { x0 := x0, x1 := x1, k0 := k.q0, k1 := k.q1, k2 := k.q2, k3 := k.q3 }

/-- `Speck64(p, k)` (R85): 27 rounds, round index from 0; the result is `x1 : x0`. -/
def speck64 (p : Word64) (k : Quad 32) : Word64 :=
  let t := speckRounds Config.speck64Rounds 0 (speckStart (lo64 p) (hi64 p) k)
  pair64 t.x1 t.x0

/-- `Speck128((x0, x1), k)` (R88): 34 rounds, round index from 0. -/
def speck128 (p : Pair) (k : Quad 64) : Pair :=
  let t := speckRounds Config.speck128Rounds 0 (speckStart p.h0 p.h1 k)
  { h0 := t.x0, h1 := t.x1 }

/-- The first line of `ChaskeyRound` (R92). -/
def chaskeyLine1 (v : Quad 32) : Quad 32 :=
  let v0 := v.q0 + v.q1
  let v1 := rotl v.q1 5 ^^^ v0
  { q0 := rotl v0 16, q1 := v1, q2 := v.q2, q3 := v.q3 }

/-- The second line of `ChaskeyRound` (R92). -/
def chaskeyLine2 (v : Quad 32) : Quad 32 :=
  let v2 := v.q2 + v.q3
  { q0 := v.q0, q1 := v.q1, q2 := v2, q3 := rotl v.q3 8 ^^^ v2 }

/-- The third line of `ChaskeyRound` (R92). -/
def chaskeyLine3 (v : Quad 32) : Quad 32 :=
  let v0 := v.q0 + v.q3
  { q0 := v0, q1 := v.q1, q2 := v.q2, q3 := rotl v.q3 13 ^^^ v0 }

/-- The fourth line of `ChaskeyRound` (R92). -/
def chaskeyLine4 (v : Quad 32) : Quad 32 :=
  let v2 := v.q2 + v.q1
  let v1 := rotl v.q1 7 ^^^ v2
  { q0 := v.q0, q1 := v1, q2 := rotl v2 16, q3 := v.q3 }

/-- `ChaskeyRound` (R92), profile A (D10): its four lines in order. -/
def chaskeyRound (v : Quad 32) : Quad 32 := chaskeyLine4 (chaskeyLine3 (chaskeyLine2 (chaskeyLine1 v)))

/-- `n` rounds of Chaskey. -/
def chaskeyRounds : Nat → Quad 32 → Quad 32
  | 0, v => v
  | n + 1, v => chaskeyRounds n (chaskeyRound v)

/-- Word by word XOR of four words. -/
def Quad.xor {w : Nat} (a b : Quad w) : Quad w :=
  { q0 := a.q0 ^^^ b.q0, q1 := a.q1 ^^^ b.q1, q2 := a.q2 ^^^ b.q2, q3 := a.q3 ^^^ b.q3 }

/-- `Chaskey12(p, k)` (R91): whitening before and after 12 rounds. -/
def chaskey12 (p k : Quad 32) : Quad 32 := (chaskeyRounds Config.chaskeyRounds (p.xor k)).xor k

end Sys2Proof.Machine
end

