-- ==== Sys2Proof/Decode.lean ====
section
/-! DEFINITION. The command word (30_encoding.md R70 to R75): the decoder, total over all 2^32 words,
and after it the encoder, written from the same table (R72). -/

namespace Sys2Proof

/-- What `decode` finds in a command word (R75): a command, or one of the two rejections by name. -/
inductive Decoded where
  /-- A legal command word (R72). -/
  | op (i : Instr)
  /-- Reserved bits 31:4 are not all zero (R75). -/
  | rsvBits
  /-- Bits 31:4 are zero and OP is 0x0 or 0x8..0xF (R75). -/
  | illegalOp
deriving DecidableEq, Repr

/-- The OP field, bits 3:0 (R70). -/
def opField (v : Word) : Nibble := v.extractLsb' 0 4

/-- The RSV field, bits 31:4 (R70). -/
def rsvField (v : Word) : BitVec 28 := v.extractLsb' 4 28

/-- The opcode map (R72): OP 0x1 to 0x7 are commands, the other nine values are illegal. -/
def instrOfOpcode (op : Nibble) : Option Instr :=
  if op = 0x1 then some .enc64
  else if op = 0x2 then some .enc128
  else if op = 0x3 then some .encck
  else if op = 0x4 then some .hashn
  else if op = 0x5 then some .hashws
  else if op = 0x6 then some .hashwc
  else if op = 0x7 then some .macn
  else none

/-- `Decode(v)` of R75: the reserved bits are looked at before the opcode. -/
def decode (v : Word) : Decoded :=
  if rsvField v ≠ 0 then .rsvBits
  else match instrOfOpcode (opField v) with
    | some i => .op i
    | none => .illegalOp

/-- The opcode of a command, the OP column of R72. -/
def opcode : Instr → Nibble
  | .enc64 => 0x1
  | .enc128 => 0x2
  | .encck => 0x3
  | .hashn => 0x4
  | .hashws => 0x5
  | .hashwc => 0x6
  | .macn => 0x7

/-- The command word of a command: RSV is zero and OP is its opcode (R70, R72). -/
def encode (i : Instr) : Word := (0 : BitVec 28) ++ opcode i

/-- The command read from a table word: `w` cut to its `nbits` bits. A command is one 32-bit word (R71),
so a longer number is no command word. -/
def decodeTableWord (nbits w : Nat) : Option Instr :=
  if w % 2 ^ nbits < 2 ^ 32 then
    match decode (BitVec.ofNat 32 (w % 2 ^ nbits)) with
    | .op i => some i
    | .rsvBits => none
    | .illegalOp => none
  else none

end Sys2Proof
end

