-- ==== Sys2Proof/Machine/Flags.lean ====
section
/-! DEFINITION. STATUS, INFO, CTRL and irq as the host sees them. The engine has no condition codes and no
arithmetic flags (10_state.md R40): these are its only flags. -/

namespace Sys2Proof.Machine

/-- One flag as a one-bit word. -/
def flagBit (b : Bool) : BitVec 1 := BitVec.ofBool b

/-- STATUS as read: `zext_32(LASTOP : ERRCODE : 0 : ERR : DONE : BUSY)` with each field at its bits (R24). -/
def Status.word (t : Status) : Word :=
  (0 : BitVec 20) ++ t.lastop ++ t.errcode ++ (0 : BitVec 1) ++ flagBit t.err ++ flagBit t.done
    ++ flagBit t.busy

/-- INFO as read: NBLK at bits 11:8 and LEN at bits 6:0 (R36). -/
def Info.word (t : Info) : Word := (0 : BitVec 20) ++ t.nblk ++ (0 : BitVec 1) ++ t.len

/-- INFO of a length and a block count (R36). -/
def Info.of (len nblk : Nat) : Info := { len := BitVec.ofNat 7 len, nblk := BitVec.ofNat 4 nblk }

/-- CTRL as read: `zext_32(CTRL.IE)` (R23). -/
def ctrlWord (ie : Bool) : Word := (0 : BitVec 31) ++ flagBit ie

/-- Bit `n` of a bus value (R10). -/
def bitOf (v : Word) (n : Nat) : Bool := v.getLsbD n

/-- A STATUS write of `v`: bit 1 clears DONE, bit 2 clears ERR and ERRCODE, every other bit is ignored
(R24). This is how the host acknowledges an event (R147). -/
def Status.acknowledge (t : Status) (v : Word) : Status :=
  { t with
    done := if bitOf v 1 then false else t.done
    err := if bitOf v 2 then false else t.err
    errcode := if bitOf v 2 then 0 else t.errcode }

/-- The interrupt output, `irq = CTRL.IE and (STATUS.DONE or STATUS.ERR)` (R44, R143). -/
def Engine.irq (e : Engine) : Bool := e.ie && (e.status.done || e.status.err)

end Sys2Proof.Machine
end

