-- ==== Sys2Proof/Machine/Ops.lean ====
section
/-! DEFINITION. The shared operations on the engine: reading and writing the registers of the window
(10_state.md R21 to R38), accepting a command, rejecting one, committing a result, and reset. The engine has
no memory besides its registers (20_memory.md R51), so these are all its stores. -/

namespace Sys2Proof.Machine

/-- The offset of a register from BASE (R21). -/
def Reg.offset : Reg → Nat
  | .id => 0x000
  | .ctrl => 0x004
  | .status => 0x008
  | .cmd => 0x00C
  | .seed i => 0x010 + 4 * i.val
  | .info => 0x018
  | .data i => 0x020 + 4 * i.val
  | .res i => 0x030 + 4 * i.val
  | .key i => 0x040 + 4 * i.val
  | .wcb i => 0x060 + 4 * i.val
  | .wcd i => 0x068 + 4 * i.val
  | .msg i => 0x080 + 4 * i.val

/-- The register at word `n` of the window, that is at offset 4n (R21); `none` is reserved space (R38). -/
def regAtWord (n : Nat) : Option Reg :=
  match n with
  | 0 => some .id
  | 1 => some .ctrl
  | 2 => some .status
  | 3 => some .cmd
  | 4 => some (.seed 0)
  | 5 => some (.seed 1)
  | 6 => some .info
  | 7 => none
  | n + 8 =>
    if h : n < 4 then some (.data ⟨n, h⟩)
    else if h : n - 4 < 4 then some (.res ⟨n - 4, h⟩)
    else if h : n - 8 < 8 then some (.key ⟨n - 8, h⟩)
    else if h : n - 16 < 2 then some (.wcb ⟨n - 16, h⟩)
    else if h : n - 18 < 2 then some (.wcd ⟨n - 18, h⟩)
    else if n < 24 then none
    else if h : n - 24 < 16 then some (.msg ⟨n - 24, h⟩)
    else none

/-- The register at a 4-byte aligned offset (R21, R50). -/
def regAt (off : Nat) : Option Reg := regAtWord (off / 4)

/-- A read of a register: its value, with no side effect (R57). -/
def Engine.read (e : Engine) : Reg → Word
  | .id => Config.idValue
  | .ctrl => ctrlWord e.ie
  | .status => e.status.word
  | .cmd => 0
  | .seed i => e.inputs.seed[i]
  | .info => e.info.word
  | .data i => e.inputs.data[i]
  | .res i => e.res[i]
  | .key i => e.inputs.key[i]
  | .wcb i => if i = 0 then lo64 Config.wconstB else hi64 Config.wconstB
  | .wcd i => if i = 0 then lo64 Config.wconstD else hi64 Config.wconstD
  | .msg i => e.inputs.msg[i]

/-- A write of `v` into a register as storage (R23, R24, R38, R58). CMD holds no state (R34): the request
that a CMD write makes is `Engine.issue` or `Engine.reject`. -/
def Engine.write (e : Engine) (r : Reg) (v : Word) : Engine :=
  match r with
  | .id => e
  | .ctrl => { e with ie := bitOf v 0 }
  | .status => { e with status := e.status.acknowledge v }
  | .cmd => e
  | .seed i => { e with inputs := { e.inputs with seed := e.inputs.seed.set i v } }
  | .info => e
  | .data i => { e with inputs := { e.inputs with data := e.inputs.data.set i v } }
  | .res _ => e
  | .key i => { e with inputs := { e.inputs with key := e.inputs.key.set i v } }
  | .wcb _ => e
  | .wcd _ => e
  | .msg i => { e with inputs := { e.inputs with msg := e.inputs.msg.set i v } }

/-- The causes of a rejection (R141). -/
inductive ErrCode where
  | illegalOp
  | rsvBits
  | busy
deriving DecidableEq, Repr

/-- The codes of R141. -/
def ErrCode.code : ErrCode → Nibble
  | .illegalOp => 1
  | .rsvBits => 2
  | .busy => 3

/-- `Reject(code)` (R140): ERR is set, and ERRCODE keeps the first code. Nothing else changes. This is the
engine's one exception entry (R146); `Status.acknowledge` is the return from it (R147). -/
def Engine.reject (c : ErrCode) (e : Engine) : Engine :=
  { e with status := { e.status with
      err := true
      errcode := if e.status.err then e.status.errcode else c.code } }

/-- `Accept(op)` (R137): the input registers are copied into the snapshot, BUSY is set, DONE cleared, and
LASTOP records the opcode. -/
def Engine.accept (i : Instr) (e : Engine) : Engine :=
  { e with
    inflight := some { op := i, snap := e.inputs }
    status := { e.status with busy := true, done := false, lastop := opcode i } }

/-- A CMD write of the word of command `i` (R136, its first and last line): rejected with BUSY while a
command is in flight, else accepted. -/
def Engine.issue (i : Instr) (e : Engine) : Engine :=
  if e.status.busy then e.reject .busy else e.accept i

/-- What a command leaves in the result registers (R35, R36). -/
structure CommandResult where
  res : Vector Word 4
  info : Info
deriving DecidableEq, Repr

/-- A 64-bit result: RES2 and RES3 are cleared (R35). -/
def result64 (r : Word64) (len nblk : Nat) : CommandResult :=
  { res := #v[lo64 r, hi64 r, 0, 0], info := Info.of len nblk }

/-- A 128-bit result of two 64-bit words (R97, R115, R118). -/
def resultPair (r : Pair) (len nblk : Nat) : CommandResult :=
  { res := #v[lo64 r.h0, hi64 r.h0, lo64 r.h1, hi64 r.h1], info := Info.of len nblk }

/-- A 128-bit result of four 32-bit words (R100). -/
def resultQuad (r : Quad 32) (len nblk : Nat) : CommandResult :=
  { res := #v[r.q0, r.q1, r.q2, r.q3], info := Info.of len nblk }

/-- The commit of R139: RES0..RES3, INFO, BUSY and DONE change in one step, and the in-flight record is
discarded. -/
def Engine.commit (r : CommandResult) (e : Engine) : Engine :=
  { e with
    res := r.res
    info := r.info
    status := { e.status with busy := false, done := true }
    inflight := none }

end Sys2Proof.Machine
end

