-- ==== Sys2Proof/Machine/Hash.lean ====
section
/-! DEFINITION. The padding engine, the Davies–Meyer loop and the hash commands HASHN, HASHWS and HASHWC
(41_hash.md R105 to R122). -/

namespace Sys2Proof.Machine

/-- What `PadBlocks` returns: the effective length L and the message blocks (R106). -/
structure Padded where
  len : Nat
  blocks : List (List Byte)
deriving DecidableEq, Repr

/-- The length field, `bytesLE32(8 * L)` (R106, R108). -/
def lengthField (L : Nat) : List Byte := bytesLE32 (BitVec.ofNat 32 (8 * L))

/-- `blk[B-4 .. B-1] <- bytesLE32(8 * L)` (R106). -/
def withLength (B L : Nat) (blk : List Byte) : List Byte := blk.take (B - 4) ++ lengthField L

/-- The partial block: the last `idx` bytes of `s`, zeros, and the terminator 0x80 at `idx` (R106). -/
def terminated (B : Nat) (s : List Byte) (idx : Nat) : List Byte :=
  (s.drop (s.length - idx) ++ zeros (B - idx)).set idx 0x80

/-- `PadBlocks(S, B)` (R106), for B = 16 or 32. -/
def padBlocks (S : Inputs) (B : Nat) : Padded :=
  let L := effLen S Config.maxMessage
  let s := msgBytes S L
  let full := (List.range (L / B)).map fun j => slice s (j * B) B
  let idx := L % B
  let blk := terminated B s idx
  if idx ≥ B - 4 then { len := L, blocks := full ++ [blk] ++ [withLength B L (zeros B)] }
  else { len := L, blocks := full ++ [withLength B L blk] }

/-- The two states of the padding state machine (R43, R110). -/
inductive PadPhase where
  | accumulating
  | terminated
deriving DecidableEq, Repr

/-- The working state of the state-machine form (R43, R110): chaining value, byte index into the block,
string position, block buffer and phase. -/
structure PadWalk (α : Type) where
  chain : α
  idx : Nat
  len : Nat
  blk : List Byte
  phase : PadPhase
deriving DecidableEq, Repr

/-- The start of the state-machine form (R110). -/
def PadWalk.start {α : Type} (B : Nat) (H : α) : PadWalk α :=
  { chain := H, idx := 0, len := 0, blk := zeros B, phase := .accumulating }

/-- One turn of the state-machine form's loop (R110), over the compression step `comp`. -/
def PadWalk.next {α : Type} (comp : α → List Byte → α) (S : Inputs) (B : Nat) (t : PadWalk α) : PadWalk α :=
  match t.phase with
  | .terminated => t
  | .accumulating =>
    if t.len = Config.maxMessage ∨ msgByte S t.len = 0 then
      let blk := (t.blk.take t.idx ++ zeros (B - t.idx)).set t.idx 0x80
      if t.idx ≥ B - 4 then
        let last := withLength B t.len (zeros B)
        { t with chain := comp (comp t.chain blk) last, blk := last, phase := .terminated }
      else
        let last := withLength B t.len blk
        { t with chain := comp t.chain last, blk := last, phase := .terminated }
    else
      let blk := t.blk.set t.idx (msgByte S t.len)
      if t.idx + 1 = B then
        { t with chain := comp t.chain blk, idx := 0, len := t.len + 1, blk := blk }
      else
        { t with idx := t.idx + 1, len := t.len + 1, blk := blk }

/-- `n` turns of the loop. -/
def PadWalk.iterate {α : Type} (comp : α → List Byte → α) (S : Inputs) (B : Nat) :
    Nat → PadWalk α → PadWalk α
  | 0, t => t
  | n + 1, t => PadWalk.iterate comp S B n (t.next comp S B)

/-- The state-machine form run to its end: at most 64 bytes are accumulated, then the string ends (R110). -/
def padWalk {α : Type} (comp : α → List Byte → α) (S : Inputs) (B : Nat) (H : α) : PadWalk α :=
  PadWalk.iterate comp S B (Config.maxMessage + 1) (PadWalk.start B H)

/-- The narrow compression step, `H <- H xor Speck64(H, key words of blk)` (R111, R112). -/
def compressN (H : Word64) (blk : List Byte) : Word64 := H ^^^ speck64 H (keyWords32 blk)

/-- The wide compression step with SPECK-128/256 (R111, R115). -/
def compressWS (H : Pair) (blk : List Byte) : Pair :=
  let c := speck128 H (keyWords64 blk)
  { h0 := H.h0 ^^^ c.h0, h1 := H.h1 ^^^ c.h1 }

/-- The wide state as Chaskey's four words, little-endian (R119). -/
def Pair.toQuad (H : Pair) : Quad 32 :=
  { q0 := lo64 H.h0, q1 := hi64 H.h0, q2 := lo64 H.h1, q3 := hi64 H.h1 }

/-- The wide compression step with Chaskey (R111, R118). -/
def compressWC (H : Pair) (blk : List Byte) : Pair :=
  let c := chaskey12 H.toQuad (keyWords32 blk)
  { h0 := H.h0 ^^^ pair64 c.q1 c.q0, h1 := H.h1 ^^^ pair64 c.q3 c.q2 }

/-- The Davies–Meyer loop: the compression step once per block, in order (R111). -/
def daviesMeyer {α : Type} (comp : α → List Byte → α) (H : α) (blocks : List (List Byte)) : α :=
  blocks.foldl comp H

/-- The wide initial value, `{const_B xor seed, const_D xor seed}` (R115). -/
def wideStart (constB constD seed : Word64) : Pair := { h0 := constB ^^^ seed, h1 := constD ^^^ seed }

/-- HASHN's result (R112). -/
def resultHashn (S : Inputs) : CommandResult :=
  let p := padBlocks S Config.block16
  result64 (daviesMeyer compressN (narrowIv S) p.blocks) p.len p.blocks.length

/-- HASHN, CMD = 0x00000004 (R112): accepted or rejected with BUSY (R136). Its completion commits
`resultHashn` of the snapshot. -/
def execHashn (s : State) : Host.Outcome State Fault Refusal := .next (s.mapEngine (Engine.issue .hashn))

/-- HASHWS's result under given domain constants (R115). -/
def hashWS (constB constD : Word64) (S : Inputs) : CommandResult :=
  let p := padBlocks S Config.block32
  resultPair (daviesMeyer compressWS (wideStart constB constD (seed64 S)) p.blocks) p.len p.blocks.length

/-- HASHWS's result (R115): the constants are the engine's parameters (R8, R37). -/
def resultHashws (S : Inputs) : CommandResult := hashWS Config.wconstB Config.wconstD S

/-- HASHWS, CMD = 0x00000005 (R115): accepted or rejected with BUSY (R136). Its completion commits
`resultHashws` of the snapshot. -/
def execHashws (s : State) : Host.Outcome State Fault Refusal := .next (s.mapEngine (Engine.issue .hashws))

/-- HASHWC's result under given domain constants (R118). -/
def hashWC (constB constD : Word64) (S : Inputs) : CommandResult :=
  let p := padBlocks S Config.block16
  resultPair (daviesMeyer compressWC (wideStart constB constD (seed64 S)) p.blocks) p.len p.blocks.length

/-- HASHWC's result (R118): the constants are the engine's parameters (R8, R37). -/
def resultHashwc (S : Inputs) : CommandResult := hashWC Config.wconstB Config.wconstD S

/-- HASHWC, CMD = 0x00000006 (R118): accepted or rejected with BUSY (R136). Its completion commits
`resultHashwc` of the snapshot. -/
def execHashwc (s : State) : Host.Outcome State Fault Refusal := .next (s.mapEngine (Engine.issue .hashwc))

end Sys2Proof.Machine
end

