-- ==== Sys2Proof/Machine/Mac.lean ====
section
/-! DEFINITION. The keyed MAC derivation engine and its command MACN (42_mac.md R125 to R131). -/

namespace Sys2Proof.Machine

/-- `buf[31] <- buf[31] | 0x80` (R126). -/
def macTerminate (buf : List Byte) : List Byte := buf.set 31 (byteAt buf 31 ||| 0x80)

/-- `buf[8 .. 11] <- bytesLE32( LE32(buf[8 .. 11]) xor (8 * L) )` (R126). -/
def macLength (L : Nat) (buf : List Byte) : List Byte :=
  buf.take 8 ++ bytesLE32 (le32 buf 8 ^^^ BitVec.ofNat 32 (8 * L)) ++ buf.drop 12

/-- The 32-byte buffer (R126), of a message of length L. -/
def macBuffer (S : Inputs) (L : Nat) : List Byte :=
  macLength L (macTerminate (msgBytes S L ++ zeros (32 - L)))

/-- k1 and k2 (R127): the secret encrypted under each half of the buffer. -/
def macK1 (secret : Word64) (buf : List Byte) : Word64 := speck64 secret (keyWords32 (slice buf 0 16))

/-- See `macK1`. -/
def macK2 (secret : Word64) (buf : List Byte) : Word64 := speck64 secret (keyWords32 (slice buf 16 16))

/-- The derived key `K <- bytesLE64(k1) ++ bytesLE64(k2)` (R127). -/
def macKey (secret : Word64) (buf : List Byte) : List Byte :=
  bytesLE64 (macK1 secret buf) ++ bytesLE64 (macK2 secret buf)

/-- The MAC (R128): the secret encrypted under the derived key, with no feed-forward. -/
def mac (secret : Word64) (buf : List Byte) : Word64 := speck64 secret (keyWords32 (macKey secret buf))

/-- MACN's result (R129): LEN is L and NBLK is 3. -/
def resultMacn (S : Inputs) : CommandResult :=
  let L := effLen S Config.macCap
  result64 (mac (seed64 S) (macBuffer S L)) L 3

/-- MACN, CMD = 0x00000007 (R129): accepted or rejected with BUSY (R136). Its completion commits
`resultMacn` of the snapshot. -/
def execMacn (s : State) : Host.Outcome State Fault Refusal := .next (s.mapEngine (Engine.issue .macn))

end Sys2Proof.Machine
end

