-- ==== Sys2Proof/Machine/RawCipher.lean ====
section
/-! DEFINITION. The raw cipher commands ENC64, ENC128 and ENCCK (40_ciphers.md R94 to R101). Each command has
a result, a function of its snapshot alone (10_state.md R41), which the completion commits
(60_exceptions.md R139), and a meaning: what the CMD write of its word does (R136). -/

namespace Sys2Proof.Machine

/-- ENC64's result (R94): LEN is 0 and NBLK is 1. -/
def resultEnc64 (S : Inputs) : CommandResult := result64 (speck64 (dataBlock64 S) (keyQuad32 S)) 0 1

/-- ENC64, CMD = 0x00000001 (R94): accepted or rejected with BUSY (R136). Its completion commits
`resultEnc64` of the snapshot. -/
def execEnc64 (s : State) : Host.Outcome State Fault Refusal := .next (s.mapEngine (Engine.issue .enc64))

/-- ENC128's result (R97): LEN is 0 and NBLK is 1. -/
def resultEnc128 (S : Inputs) : CommandResult := resultPair (speck128 (dataPair S) (keyQuad64 S)) 0 1

/-- ENC128, CMD = 0x00000002 (R97): accepted or rejected with BUSY (R136). Its completion commits
`resultEnc128` of the snapshot. -/
def execEnc128 (s : State) : Host.Outcome State Fault Refusal := .next (s.mapEngine (Engine.issue .enc128))

/-- ENCCK's result (R100): LEN is 0 and NBLK is 1. -/
def resultEncck (S : Inputs) : CommandResult := resultQuad (chaskey12 (dataQuad S) (keyQuad32 S)) 0 1

/-- ENCCK, CMD = 0x00000003 (R100): accepted or rejected with BUSY (R136). Its completion commits
`resultEncck` of the snapshot. -/
def execEncck (s : State) : Host.Outcome State Fault Refusal := .next (s.mapEngine (Engine.issue .encck))

end Sys2Proof.Machine
end

