-- ==== Sys2Proof/Machine/Complete.lean ====
section
/-! DEFINITION. The completion of an accepted command (60_exceptions.md R139), the engine's only step of its
own (00_scope.md R16(b)). -/

namespace Sys2Proof.Machine

/-- `Result(op, S)` of R139: the rule of op (R94, R97, R100, R112, R115, R118, R129). -/
def result : Instr → Inputs → CommandResult
  | .enc64, S => resultEnc64 S
  | .enc128, S => resultEnc128 S
  | .encck, S => resultEncck S
  | .hashn, S => resultHashn S
  | .hashws, S => resultHashws S
  | .hashwc, S => resultHashwc S
  | .macn, S => resultMacn S

/-- `Complete()` (R139). With nothing in flight no completion is enabled (R138) and nothing happens. -/
def Engine.complete (e : Engine) : Engine :=
  match e.inflight with
  | none => e
  | some f => e.commit (result f.op f.snap)

end Sys2Proof.Machine
end

