-- ==== Sys2Proof/Machine/Dispatch.lean ====
section
/-! DEFINITION. One arm per command (30_encoding.md R72). -/

namespace Sys2Proof.Machine

-- The meaning of the CMD write of each command's word (60_exceptions.md R136).
def exec (i : Instr) (s : State) : Host.Outcome State Fault Refusal :=
  match i with
  | .enc64 => Sys2Proof.Machine.execEnc64 s
  | .enc128 => Sys2Proof.Machine.execEnc128 s
  | .encck => Sys2Proof.Machine.execEncck s
  | .hashn => Sys2Proof.Machine.execHashn s
  | .hashws => Sys2Proof.Machine.execHashws s
  | .hashwc => Sys2Proof.Machine.execHashwc s
  | .macn => Sys2Proof.Machine.execMacn s

end Sys2Proof.Machine
end

