-- ==== Sys2Proof/WellFormed.lean ====
section
/-! DEFINITION. What is checked of a term before it runs. A command has no operand field (30_encoding.md
R73, R74), so every command is well-formed; a host program (R77) must define each label once and branch
only to labels it defines, and the text of LDSTR has at most 64 bytes (R78). -/

namespace Sys2Proof

/-- Every command is well-formed: it has no field (R73, R74). -/
def Instr.wf : Instr → Bool
  | .enc64 => true
  | .enc128 => true
  | .encck => true
  | .hashn => true
  | .hashws => true
  | .hashwc => true
  | .macn => true

namespace Machine

/-- The label a statement defines (R77). -/
def HostStmt.labelOf : HostStmt → Option Nat
  | .label l => some l
  | .wr _ _ => none
  | .rd _ _ => none
  | .cmd _ => none
  | .bnz _ _ _ => none
  | .bz _ _ _ => none
  | .busRead _ _ _ => none
  | .busWrite _ _ _ => none
  | .waitIrq => none

/-- The label a statement branches to (R77). -/
def HostStmt.targetOf : HostStmt → Option Nat
  | .bnz _ _ l => some l
  | .bz _ _ l => some l
  | .label _ => none
  | .wr _ _ => none
  | .rd _ _ => none
  | .cmd _ => none
  | .busRead _ _ _ => none
  | .busWrite _ _ _ => none
  | .waitIrq => none

/-- No label is defined twice. -/
def labelsUnique (p : List HostStmt) : Bool := decide (p.filterMap HostStmt.labelOf).Nodup

/-- Every branch goes to a label the program defines. -/
def targetsDefined (p : List HostStmt) : Bool :=
  (p.filterMap HostStmt.targetOf).all fun l => (p.filterMap HostStmt.labelOf).contains l

/-- A well-formed host program (R77). -/
def hostProgramWf (p : List HostStmt) : Bool := labelsUnique p && targetsDefined p

/-- `LDSTR "<text>"` is for "an n-byte text, n <= 64" (R78). -/
def ldstrTextWf (text : List Byte) : Bool := decide (text.length ≤ 64)

end Machine

end Sys2Proof
end

