-- ==== Sys2Proof/Machine/HostBus.lean ====
section
/-! DEFINITION. The window on the bus (20_memory.md R50 to R58), CMD writes (60_exceptions.md R136), and one
step of a host agent (00_scope.md R16(a), 30_encoding.md R77). -/

namespace Sys2Proof.Machine

/-- `off = addr - BASE` for an address in the window, BASE to BASE + 0xFF (R50); `none` outside (R52). -/
def windowOffset (addr : Nat) : Option Nat :=
  if Config.base ≤ addr ∧ addr - Config.base < Config.windowBytes then some (addr - Config.base) else none

/-- The only legal access: 32 bits wide at a multiple of 4 (R54). -/
def accessLegal (off size : Nat) : Bool := decide (size = 4 ∧ off % 4 = 0)

/-- The value of a legal read at an offset: reserved space reads 0 (R38). -/
def readWindow (e : Engine) (off : Nat) : Word :=
  match regAt off with
  | some r => e.read r
  | none => 0

/-- `OnCmdWrite(v)` (R136): BUSY is checked before the word is decoded (R75, R141). -/
def cmdWrite (v : Word) (s : State) : Host.Outcome State Fault Refusal :=
  if s.engine.status.busy then .next (s.mapEngine (Engine.reject .busy))
  else match decode v with
    | .rsvBits => .next (s.mapEngine (Engine.reject .rsvBits))
    | .illegalOp => .next (s.mapEngine (Engine.reject .illegalOp))
    | .op i => exec i s

/-- A legal write of `v` at an offset: a CMD write is a command request (R58), reserved space ignores it
(R38), any other register stores it. -/
def writeWindow (off : Nat) (v : Word) (s : State) : Host.Outcome State Fault Refusal :=
  match regAt off with
  | none => .next s
  | some .cmd => cmdWrite v s
  | some r => .next (s.mapEngine fun e => e.write r v)

/-- The value of a host variable; one that was never written reads 0 (notes/assumptions/7). -/
def varOf : List (Nat × Word) → Nat → Word
  | [], _ => 0
  | (y, w) :: vs, x => if y = x then w else varOf vs x

/-- The variables without `x`. -/
def dropVar (vs : List (Nat × Word)) (x : Nat) : List (Nat × Word) := vs.filter fun p => p.1 ≠ x

/-- An entry put in its place in a list sorted by variable number. -/
def insertVar (x : Nat) (w : Word) : List (Nat × Word) → List (Nat × Word)
  | [] => [(x, w)]
  | (y, u) :: vs => if x < y then (x, w) :: (y, u) :: vs else (y, u) :: insertVar x w vs

/-- `name <- w` (R77), keeping the list sorted and without zero entries. -/
def setVar (vs : List (Nat × Word)) (x : Nat) (w : Word) : List (Nat × Word) :=
  if w = 0 then dropVar vs x else insertVar x w (dropVar vs x)

/-- The value operand of a write (R77). -/
def HostAgent.value (a : HostAgent) : HostVal → Word
  | .imm w => w
  | .var x => varOf a.vars x

/-- The next statement, for a host that has neither faulted (R145) nor reached its program's end (R156). -/
def HostAgent.fetch (a : HostAgent) : Option HostStmt :=
  match a.fault with
  | some _ => none
  | none => a.prog[a.pc]?

/-- On to the next statement. -/
def HostAgent.advance (a : HostAgent) : HostAgent := { a with pc := a.pc + 1 }

/-- On to the next statement, with a variable written. -/
def HostAgent.receive (a : HostAgent) (x : Nat) (w : Word) : HostAgent :=
  { a with pc := a.pc + 1, vars := setVar a.vars x w }

/-- The host stops with a BusError (R145). -/
def HostAgent.stop (a : HostAgent) (off : Nat) : HostAgent := { a with fault := some (.busError off) }

/-- On at another statement. -/
def HostAgent.goto (a : HostAgent) (pc : Nat) : HostAgent := { a with pc := pc }

/-- The index of `label l:` in a program (R77). -/
def labelIndex (p : List HostStmt) (l : Nat) : Option Nat := p.findIdx? fun t => t.labelOf = some l

/-- The state with host `h` replaced. -/
def State.withHost (s : State) (h : Nat) (a : HostAgent) : State := { s with hosts := s.hosts.set h a }

/-- `BusRead(BASE + off, size)` by host `h` into variable `x`: a malformed access is a fault of this host,
and the engine is unchanged (R54, R145). -/
def hostRead (h : Nat) (a : HostAgent) (off size x : Nat) (s : State) : Host.Outcome State Fault Refusal :=
  if accessLegal off size then .next (s.withHost h (a.receive x (readWindow s.engine off)))
  else .next (s.withHost h (a.stop off))

/-- `BusWrite(BASE + off, size, v)` by host `h`: a malformed access is a fault of this host, and has no
partial effect (R54, R145). -/
def hostWrite (h : Nat) (a : HostAgent) (off size : Nat) (v : Word) (s : State) :
    Host.Outcome State Fault Refusal :=
  if accessLegal off size then writeWindow off v (s.withHost h a.advance)
  else .next (s.withHost h (a.stop off))

/-- A host branch to label `l` (R77). -/
def hostBranch (h : Nat) (a : HostAgent) (taken : Bool) (l : Nat) (s : State) :
    Host.Outcome State Fault Refusal :=
  if taken then
    match labelIndex a.prog l with
    | some k => .next (s.withHost h (a.goto k))
    | none => .refused (.undefinedLabel l)
  else .next (s.withHost h a.advance)

/-- One statement of host `h`'s program (R77). -/
def hostStmt (h : Nat) (a : HostAgent) (t : HostStmt) (s : State) : Host.Outcome State Fault Refusal :=
  match t with
  | .wr r v => hostWrite h a r.offset 4 (a.value v) s
  | .rd r x => hostRead h a r.offset 4 x s
  | .cmd i => hostWrite h a (Reg.offset .cmd) 4 (encode i) s
  | .label _ => .next (s.withHost h a.advance)
  | .bnz x m l => hostBranch h a (decide (varOf a.vars x &&& m ≠ 0)) l s
  | .bz x m l => hostBranch h a (decide (varOf a.vars x &&& m = 0)) l s
  | .busRead addr size x =>
    match windowOffset addr with
    | some off => hostRead h a off size x s
    | none => .refused (.outsideWindow addr)
  | .busWrite addr size v =>
    match windowOffset addr with
    | some off => hostWrite h a off size (a.value v) s
    | none => .refused (.outsideWindow addr)
  | .waitIrq => if s.engine.irq then .next (s.withHost h a.advance) else .next s

/-- The turn of host `h`: a host that is absent, has faulted or has stopped takes no step. -/
def hostTurn (h : Nat) (s : State) : Host.Outcome State Fault Refusal :=
  match s.hosts[h]? with
  | none => .next s
  | some a =>
    match a.fetch with
    | none => .next s
    | some t => hostStmt h a t s

end Sys2Proof.Machine
end

