-- ==== Sys2Proof/Machine/Agents.lean ====
section
/-! DEFINITION. One step of the whole machine: the agents of 00_scope.md R16 take turns, each turn one atomic
step of the total order of 20_memory.md R59. -/

namespace Sys2Proof.Machine

/-- The step a turn names. -/
def takeTurn (t : Turn) (s : State) : Host.Outcome State Fault Refusal :=
  match t with
  | .host h => hostTurn h s
  | .engine => .next (s.mapEngine Engine.complete)
  | .reset => .next (s.withEngine Engine.reset)

/-- A host that has a step to take now; one that waits for irq has none while irq = 0. -/
def HostAgent.ready (a : HostAgent) (irq : Bool) : Bool :=
  match a.fetch with
  | none => false
  | some .waitIrq => irq
  | some _ => true

/-- The first host that has a step to take. -/
def firstReady (s : State) : Option Nat := s.hosts.findIdx? fun a => a.ready s.engine.irq

/-- Whose turn it is when no interleaving is fixed any more: an enabled completion is taken (the fairness of
R138), else the first host that has a step to take; with none the engine idles (notes/assumptions/5). -/
def defaultTurn (s : State) : Turn :=
  if s.engine.inflight.isSome then .engine
  else match firstReady s with
    | some h => .host h
    | none => .engine

/-- The state with its next turn consumed. -/
def State.popTurn (s : State) : State := { s with turns := s.turns.tail }

/-- The turn that the next step takes. -/
def State.nextTurn (s : State) : Turn :=
  match s.turns with
  | t :: _ => t
  | [] => defaultTurn s

/-- One atomic step (R16). -/
def agentStep (s : State) : Host.Outcome State Fault Refusal := takeTurn s.nextTurn s.popTurn

/-- A host that starts a program: first statement, no variable written, no fault. -/
def HostAgent.load (p : List HostStmt) : HostAgent := { prog := p, pc := 0, vars := [], fault := none }

/-- The state with one more host, whose turn is next. -/
def State.addHost (s : State) (p : List HostStmt) : State :=
  { s with hosts := s.hosts ++ [HostAgent.load p], turns := .host s.hosts.length :: s.turns }

end Sys2Proof.Machine
end

