-- ==== Sys2Proof/Machine/Step.lean ====
section
/-! DEFINITION. The step of the machine, and where a command word is placed for the next step to run it. -/

namespace Sys2Proof.Machine

/-- One atomic step of one agent (00_scope.md R16, 20_memory.md R59). -/
def step (s : State) : Host.Outcome State Fault Refusal := agentStep s

/-- The state with one more host whose program is the single statement `WR CMD, w`, and that host's turn
next: a command word reaches the engine only as a host's write to CMD (30_encoding.md R70, R71;
notes/assumptions/6). -/
def State.withFetchWord (s : State) (nbits w : Nat) : State :=
  s.addHost [.wr .cmd (.imm (BitVec.ofNat 32 (w % 2 ^ nbits)))]

end Sys2Proof.Machine
end

