-- ==== Sys2Proof/Machine/Assembler.lean ====
section
/-! DEFINITION. The pseudo-instructions of a host program (30_encoding.md R78) and disassembly (R79). -/

namespace Sys2Proof.Machine

/-- `LDSTR "<text>"`: sixteen writes of the text's bytes, zeros after them (R78). -/
def ldstr (text : List Byte) : List HostStmt :=
  (List.finRange 16).map fun i =>
    .wr (.msg i) (.imm (le32 (text ++ zeros (64 - text.length)) (4 * i.val)))

/-- `LDSEED <imm64>` (R78). -/
def ldseed (v : Word64) : List HostStmt := [.wr (.seed 0) (.imm (lo64 v)), .wr (.seed 1) (.imm (hi64 v))]

/-- `LDIV <imm32>` (R78). -/
def ldiv (v : Word) : List HostStmt := [.wr (.seed 0) (.imm v)]

/-- `WAIT`, with label `l` and variable `x`: poll until BUSY = 0 (R78). -/
def waitIdle (l x : Nat) : List HostStmt := [.label l, .rd .status x, .bnz x 0x1 l]

/-- `CLRST`: clear DONE and ERR (R78). -/
def clrst : List HostStmt := [.wr .status (.imm 0x00000006)]

/-- `RUN <MNEMONIC>` (R78). -/
def runCmd (i : Instr) (l x : Nat) : List HostStmt := .cmd i :: waitIdle l x

/-- The mnemonic of a command (R72). -/
def mnemonic : Instr → String
  | .enc64 => "ENC64"
  | .enc128 => "ENC128"
  | .encck => "ENCCK"
  | .hashn => "HASHN"
  | .hashws => "HASHWS"
  | .hashwc => "HASHWC"
  | .macn => "MACN"

/-- One hex digit, upper case (P4). -/
def hexDigit (n : Nibble) : Char :=
  if n.toNat < 10 then Char.ofNat (48 + n.toNat) else Char.ofNat (55 + n.toNat)

/-- Eight hex digits, the most significant first. -/
def hexWord (v : Word) : String :=
  String.ofList ((List.range 8).map fun j => hexDigit (v.extractLsb' (28 - 4 * j) 4))

/-- A CMD write of v as text: its mnemonic, or a `.word` line (R79). -/
def disassemble (v : Word) : String :=
  match decode v with
  | .op i => mnemonic i
  | .rsvBits => ".word 0x" ++ hexWord v ++ "  ; illegal"
  | .illegalOp => ".word 0x" ++ hexWord v ++ "  ; illegal"

end Sys2Proof.Machine
end

