-- ==== Sys2Proof/Safety.lean ====
section
/-! DEFINITION. The words that claims about the machine use: runs, the end of a run, the bus write a host is
about to make, and the invariant of every step. -/

namespace Sys2Proof.Machine

/-- `n` steps, stopping at the first refusal or fault. -/
def run : Nat → State → Host.Outcome State Fault Refusal
  | 0, s => .next s
  | n + 1, s =>
    match step s with
    | .next t => run n t
    | .fault f => .fault f
    | .refused r => .refused r

/-- "A run of a host program against the engine ends when the host program has stopped and STATUS.BUSY = 0"
(R156), for every host of the state. -/
def RunOver (s : State) : Prop := (∀ a ∈ s.hosts, a.fetch = none) ∧ s.engine.status.busy = false

/-- The legal bus write (R54) that a host's next statement makes, as offset and value. -/
def HostAgent.pendingWrite (a : HostAgent) : Option (Nat × Word) :=
  match a.fetch with
  | none => none
  | some (.wr r v) => some (r.offset, a.value v)
  | some (.rd _ _) => none
  | some (.cmd i) => some (Reg.offset .cmd, encode i)
  | some (.label _) => none
  | some (.bnz _ _ _) => none
  | some (.bz _ _ _) => none
  | some (.busRead _ _ _) => none
  | some (.busWrite addr size v) =>
    match windowOffset addr with
    | some off => if accessLegal off size then some (off, a.value v) else none
    | none => none
  | some .waitIrq => none

/-- The legal bus write that the next step makes, if it makes one. -/
def State.pendingWrite (s : State) : Option (Nat × Word) :=
  match s.nextTurn with
  | .host h =>
    match s.hosts[h]? with
    | some a => a.pendingWrite
    | none => none
  | .engine => none
  | .reset => none

/-- The host variables are a sorted list without zero entries, so that equal contents are equal lists. -/
def varsWf (vs : List (Nat × Word)) : Prop :=
  vs.Pairwise (fun p q => p.1 < q.1) ∧ ∀ p ∈ vs, p.2 ≠ 0

/-- What every reachable engine state meets. -/
structure Engine.Inv (e : Engine) : Prop where
  /-- "While STATUS.BUSY = 1 the engine holds the pair (op, S)" (R42), and only then. -/
  busy_inflight : e.status.busy = e.inflight.isSome
  /-- A command in flight has cleared DONE (R137), and only its completion sets it (R26). -/
  busy_not_done : e.status.busy = true → e.status.done = false
  /-- LASTOP is the opcode of the command in flight (R29, R42). -/
  lastop_inflight : ∀ f, e.inflight = some f → e.status.lastop = opcode f.op
  /-- "ERRCODE is 0 whenever ERR is 0" (R28). -/
  errcode_clear : e.status.err = false → e.status.errcode = 0
  /-- With ERR = 1, ERRCODE is one of the three codes (R28, R141). -/
  errcode_named : e.status.err = true → e.status.errcode = 1 ∨ e.status.errcode = 2 ∨ e.status.errcode = 3
  /-- LASTOP is 0 or an opcode (R29). -/
  lastop_le : e.status.lastop.toNat ≤ 7
  /-- LEN is 0..64 (R36). -/
  len_le : e.info.len.toNat ≤ 64
  /-- NBLK is at most 5 (R36). -/
  nblk_le : e.info.nblk.toNat ≤ 5

/-- The invariant of every step: that of the engine, and the canonical form of the hosts' variables. -/
structure State.Inv (s : State) : Prop where
  engine : s.engine.Inv
  hosts : ∀ a ∈ s.hosts, varsWf a.vars

end Sys2Proof.Machine
end

