-- ==== Sys2Proof/Certificates/Slice0/Obligations.lean ====
section
/-! DEFINITION. The statements for the provers, in the order of OBLIGATIONS.json. Each docstring names the rule
of spec/ it formalises. Offsets, bit positions and codes are written out as numbers from the spec. -/

open Sys2Proof Sys2Proof.Machine

/-! ## The command word (30_encoding.md) -/

/-- Words written out from the table of R72, and one of each rejection of R75. -/
def Obligations.DecodeOfWrittenWords : Prop :=
  decode 0b00000000000000000000000000000001#32 = .op .enc64 ∧
  decode 0b00000000000000000000000000000010#32 = .op .enc128 ∧
  decode 0b00000000000000000000000000000011#32 = .op .encck ∧
  decode 0b00000000000000000000000000000100#32 = .op .hashn ∧
  decode 0b00000000000000000000000000000101#32 = .op .hashws ∧
  decode 0b00000000000000000000000000000110#32 = .op .hashwc ∧
  decode 0b00000000000000000000000000000111#32 = .op .macn ∧
  decode 0b00000000000000000000000000000000#32 = .illegalOp ∧
  decode 0b00000000000000000000000000001000#32 = .illegalOp ∧
  decode 0b00000000000000000000000000010001#32 = .rsvBits

/-- R75 over all 2^32 words: the outcome is RSV_BITS exactly when v[31:4] is not 0, ILLEGAL_OP exactly when
v[31:4] is 0 and v[3:0] is 0 or 8..15, and a command otherwise, the one of the opcode v[3:0] (R72). -/
def Obligations.DecodeIsTotalOverAllWords : Prop :=
  ∀ v : Word,
    (decode v = .rsvBits ↔ v.extractLsb' 4 28 ≠ 0) ∧
    (decode v = .illegalOp ↔
      v.extractLsb' 4 28 = 0 ∧ ((v.extractLsb' 0 4).toNat = 0 ∨ 8 ≤ (v.extractLsb' 0 4).toNat)) ∧
    (∀ i, decode v = .op i → v.extractLsb' 4 28 = 0 ∧ v.extractLsb' 0 4 = opcode i) ∧
    ((∃ i, decode v = .op i) ↔ 0x00000001 ≤ v.toNat ∧ v.toNat ≤ 0x00000007)

/-- Decode and encode agree: a word decodes to a command exactly when it is that command's word, as a command
word and as a table word. -/
def Obligations.DecodeAgreesWithEncode : Prop :=
  ∀ (v : Word) (i : Instr),
    (decode v = .op i ↔ v = encode i) ∧ (decodeTableWord 32 v.toNat = some i ↔ v = encode i)

/-! ## The register window (10_state.md, 20_memory.md) -/

/-- R21: every register is found at its own 4-byte aligned offset in the window, the offsets are the map's, and
no other register is found there; what is left is exactly the reserved space of R38. -/
def Obligations.RegisterMapOffsets : Prop :=
  (∀ r : Reg, regAt r.offset = some r ∧ r.offset % 4 = 0 ∧ r.offset < 0x100) ∧
  Reg.offset .id = 0x000 ∧ Reg.offset .ctrl = 0x004 ∧ Reg.offset .status = 0x008 ∧
  Reg.offset .cmd = 0x00C ∧ Reg.offset (.seed 0) = 0x010 ∧ Reg.offset (.seed 1) = 0x014 ∧
  Reg.offset .info = 0x018 ∧
  (∀ i, Reg.offset (.data i) = 0x020 + 4 * i.val) ∧ (∀ i, Reg.offset (.res i) = 0x030 + 4 * i.val) ∧
  (∀ i, Reg.offset (.key i) = 0x040 + 4 * i.val) ∧
  Reg.offset (.wcb 0) = 0x060 ∧ Reg.offset (.wcb 1) = 0x064 ∧
  Reg.offset (.wcd 0) = 0x068 ∧ Reg.offset (.wcd 1) = 0x06C ∧
  (∀ i, Reg.offset (.msg i) = 0x080 + 4 * i.val) ∧
  (∀ off r, off % 4 = 0 → regAt off = some r → off = r.offset) ∧
  (∀ off, off % 4 = 0 → off < 0x100 →
    (regAt off = none ↔ off = 0x01C ∨ (0x070 ≤ off ∧ off ≤ 0x07C) ∨ (0x0C0 ≤ off ∧ off ≤ 0x0FC)))

/-- R24: the layout of STATUS as read at offset 0x008, and what a write of `v` there does: bit 1 clears DONE,
bit 2 clears ERR and ERRCODE, and nothing else of the machine changes. Every field is 0 after reset. -/
def Obligations.StatusReadAndWriteOneToClear : Prop :=
  ∀ (s : State) (v : Word),
    (let w := readWindow s.engine 0x008
     w.getLsbD 0 = s.engine.status.busy ∧ w.getLsbD 1 = s.engine.status.done ∧
     w.getLsbD 2 = s.engine.status.err ∧ w.getLsbD 3 = false ∧
     w.extractLsb' 4 4 = s.engine.status.errcode ∧ w.extractLsb' 8 4 = s.engine.status.lastop ∧
     w.extractLsb' 12 20 = 0) ∧
    writeWindow 0x008 v s = .next (s.withEngine { s.engine with
      status := { s.engine.status with
        done := s.engine.status.done && !v.getLsbD 1
        err := s.engine.status.err && !v.getLsbD 2
        errcode := if v.getLsbD 2 then 0 else s.engine.status.errcode } }) ∧
    readWindow Engine.reset 0x008 = 0

/-- R23: a CTRL write sets IE to v[0] whether or not BUSY is set, and changes nothing else, so not what the command
in flight computes; a read returns IE, zero-extended, and 0 after reset. -/
def Obligations.CtrlReadAndWrite : Prop :=
  ∀ (s : State) (v : Word),
    writeWindow 0x004 v s = .next (s.withEngine { s.engine with ie := v.getLsbD 0 }) ∧
    ({ s.engine with ie := v.getLsbD 0 } : Engine).complete.res = s.engine.complete.res ∧
    ({ s.engine with ie := v.getLsbD 0 } : Engine).complete.info = s.engine.complete.info ∧
    (readWindow s.engine 0x004 = if s.engine.ie then 1 else 0) ∧ readWindow Engine.reset 0x004 = 0

/-- "A write to a RW register stores the value and nothing else" (R58), for SEED, DATA, KEY and MSG: the register
reads back `v`, every other offset of the window reads as before, and the in-flight record, the other hosts and
the turns stay. -/
def Obligations.InputRegisterWriteStores : Prop :=
  ∀ (s : State) (v : Word) (r : Reg),
    ((∃ i, r = .seed i) ∨ (∃ i, r = .data i) ∨ (∃ i, r = .key i) ∨ (∃ i, r = .msg i)) →
    ∃ t, writeWindow r.offset v s = .next t ∧ readWindow t.engine r.offset = v ∧
      (∀ off, off % 4 = 0 → off ≠ r.offset → readWindow t.engine off = readWindow s.engine off) ∧
      t.engine.status = s.engine.status ∧ t.engine.inflight = s.engine.inflight ∧
      t.hosts = s.hosts ∧ t.turns = s.turns

/-- R38: a write to a reserved offset or to an RO register changes nothing, and a reserved offset reads 0. -/
def Obligations.ReservedAndReadOnlyIgnoreWrites : Prop :=
  ∀ (s : State) (v : Word) (off : Nat), off % 4 = 0 →
    (off = 0x000 ∨ off = 0x018 ∨ off = 0x01C ∨ (0x030 ≤ off ∧ off ≤ 0x03C) ∨ (0x060 ≤ off ∧ off ≤ 0x07C) ∨
      (0x0C0 ≤ off ∧ off ≤ 0x0FC)) →
    writeWindow off v s = .next s ∧
    ((off = 0x01C ∨ (0x070 ≤ off ∧ off ≤ 0x07C) ∨ (0x0C0 ≤ off ∧ off ≤ 0x0FC)) → readWindow s.engine off = 0)

/-- R22, R34, R35, R36, R37: what the registers a host cannot store to read as, in every state. ID is its constant,
CMD is 0, RES0..RES3 are the result words, INFO is LEN at bits 6:0 and NBLK at bits 11:8, and WCB1:WCB0 and
WCD1:WCD0 are the two parameters. -/
def Obligations.ReadOnlyRegisterReads : Prop :=
  ∀ e : Engine,
    readWindow e 0x000 = 0x4D415255 ∧ readWindow e 0x00C = 0 ∧
    (∀ i : Fin 4, readWindow e (0x030 + 4 * i.val) = e.res[i]) ∧
    ((readWindow e 0x018).extractLsb' 0 7 = e.info.len ∧ (readWindow e 0x018).getLsbD 7 = false ∧
      (readWindow e 0x018).extractLsb' 8 4 = e.info.nblk ∧ (readWindow e 0x018).extractLsb' 12 20 = 0) ∧
    readWindow e 0x064 ++ readWindow e 0x060 = Config.wconstB ∧
    readWindow e 0x06C ++ readWindow e 0x068 = Config.wconstD

/-- R57: a legal read of any offset changes no engine state. The reading host gets the value the window held, and
moves on to its next statement; every other variable of its, every other host and the turns to come stay. -/
def Obligations.ReadHasNoSideEffect : Prop :=
  ∀ (s : State) (h : Nat) (a : HostAgent) (off x : Nat),
    s.nextTurn = .host h → s.hosts[h]? = some a → off % 4 = 0 → off < 0x100 →
    (a.fetch = some (.busRead (Config.base + off) 4 x) ∨ ∃ r, off = r.offset ∧ a.fetch = some (.rd r x)) →
    ∃ t b, step s = .next t ∧ t.engine = s.engine ∧ t.hosts = s.hosts.set h b ∧ t.turns = s.turns.tail ∧
      b.pc = a.pc + 1 ∧ b.prog = a.prog ∧ b.fault = a.fault ∧
      varOf b.vars x = readWindow s.engine off ∧ (∀ y, y ≠ x → varOf b.vars y = varOf a.vars y)

/-- R54 and R145: an access to the window that is not 32 bits wide, or not 4-byte aligned, stops the host that
made it with BusError(off); the engine, every other host and the turns to come are as they were. And "the faulted
host takes no further step": a later turn of its changes nothing but the turns to come. -/
def Obligations.MalformedAccessFaultsItsHost : Prop :=
  ∀ (s : State) (h : Nat) (a : HostAgent), s.nextTurn = .host h → s.hosts[h]? = some a →
    (∀ off size : Nat, off < 0x100 → (size ≠ 4 ∨ off % 4 ≠ 0) →
      ((∃ x, a.fetch = some (.busRead (Config.base + off) size x)) ∨
        (∃ v, a.fetch = some (.busWrite (Config.base + off) size v))) →
      ∃ t, step s = .next t ∧ t.engine = s.engine ∧ t.turns = s.turns.tail ∧
        t.hosts = s.hosts.set h { a with fault := some (.busError off) }) ∧
    (a.fault ≠ none → step s = .next { s with turns := s.turns.tail })

/-! ## Commands: acceptance, rejection, completion (60_exceptions.md) -/

/-- R136, R140 and R141: what a CMD write of `v` does. While BUSY it is rejected with code 3; else with code 2 if
v[31:4] is not 0; else with code 1 if v[3:0] is not in 1..7. A rejection sets ERR, keeps the first code, and
changes nothing else. -/
def Obligations.CmdWriteRejections : Prop :=
  ∀ (s : State) (v : Word) (code : Nibble),
    ((s.engine.status.busy = true ∧ code = 3) ∨
      (s.engine.status.busy = false ∧ v.extractLsb' 4 28 ≠ 0 ∧ code = 2) ∨
      (s.engine.status.busy = false ∧ v.extractLsb' 4 28 = 0 ∧
        ((v.extractLsb' 0 4).toNat = 0 ∨ 8 ≤ (v.extractLsb' 0 4).toNat) ∧ code = 1)) →
    writeWindow 0x00C v s = .next (s.withEngine { s.engine with
      status := { s.engine.status with
        err := true
        errcode := if s.engine.status.err then s.engine.status.errcode else code } })

/-- R137: a CMD write of a legal word while BUSY = 0 copies the input registers into the snapshot, records the
opcode, sets BUSY, clears DONE, and changes nothing else. -/
def Obligations.CmdWriteAcceptance : Prop :=
  ∀ (s : State) (v : Word) (i : Instr),
    s.engine.status.busy = false → v.extractLsb' 4 28 = 0 → v.extractLsb' 0 4 = opcode i →
    writeWindow 0x00C v s = .next (s.withEngine { s.engine with
      inflight := some { op := i, snap := s.engine.inputs }
      status := { s.engine.status with busy := true, done := false, lastop := v.extractLsb' 0 4 } })

/-- The engine's turn with a command in flight commits the command's result, sets DONE, clears BUSY and discards the
record, all in this one step (R139); nothing else of the engine, and no host, changes. That with no turn fixed any
more it is this completion that is taken first is the model's choice (notes/assumptions/5, DESIGN CHOICE): R138 says
only that an enabled completion is eventually taken. -/
def Obligations.CompletionCommitsInOneStep : Prop :=
  ∀ (s : State) (f : InFlight),
    s.engine.inflight = some f → (s.turns.head? = some .engine ∨ s.turns = []) →
    step s = .next { s with
      turns := s.turns.tail
      engine := { s.engine with
        res := (result f.op f.snap).res
        info := (result f.op f.snap).info
        status := { s.engine.status with busy := false, done := true }
        inflight := none } }

/-- ENC64 (R94), from its CMD write to its completion: with BUSY = 0 the command is accepted, and its completion
leaves `Speck64(DATA1:DATA0, KEY0..KEY3)` in RES1:RES0, zero in RES2 and RES3, LEN 0 and NBLK 1. -/
def Obligations.Enc64RunsToItsResult : Prop :=
  ∀ s : State, s.engine.status.busy = false →
    ∃ t, exec .enc64 s = .next t ∧ encode .enc64 = 0x00000001 ∧
      t = s.withEngine { s.engine with
        inflight := some { op := .enc64, snap := s.engine.inputs }
        status := { s.engine.status with busy := true, done := false, lastop := 0x1 } } ∧
      (let S := s.engine.inputs
       let r := speck64 (S.data[1] ++ S.data[0]) { q0 := S.key[0], q1 := S.key[1], q2 := S.key[2], q3 := S.key[3] }
       t.engine.complete = { s.engine with
         inflight := none
         status := { s.engine.status with busy := false, done := true, lastop := 0x1 }
         res := #v[r.extractLsb' 0 32, r.extractLsb' 32 32, 0, 0]
         info := { len := 0, nblk := 1 } })

/-- ENC128 (R97), from its CMD write to its completion. -/
def Obligations.Enc128RunsToItsResult : Prop :=
  ∀ s : State, s.engine.status.busy = false →
    ∃ t, exec .enc128 s = .next t ∧ encode .enc128 = 0x00000002 ∧
      t = s.withEngine { s.engine with
        inflight := some { op := .enc128, snap := s.engine.inputs }
        status := { s.engine.status with busy := true, done := false, lastop := 0x2 } } ∧
      (let S := s.engine.inputs
       let y := speck128 { h0 := S.data[1] ++ S.data[0], h1 := S.data[3] ++ S.data[2] }
         { q0 := S.key[1] ++ S.key[0], q1 := S.key[3] ++ S.key[2]
           q2 := S.key[5] ++ S.key[4], q3 := S.key[7] ++ S.key[6] }
       t.engine.complete = { s.engine with
         inflight := none
         status := { s.engine.status with busy := false, done := true, lastop := 0x2 }
         res := #v[y.h0.extractLsb' 0 32, y.h0.extractLsb' 32 32, y.h1.extractLsb' 0 32, y.h1.extractLsb' 32 32]
         info := { len := 0, nblk := 1 } })

/-- ENCCK (R100), from its CMD write to its completion. -/
def Obligations.EncckRunsToItsResult : Prop :=
  ∀ s : State, s.engine.status.busy = false →
    ∃ t, exec .encck s = .next t ∧ encode .encck = 0x00000003 ∧
      t = s.withEngine { s.engine with
        inflight := some { op := .encck, snap := s.engine.inputs }
        status := { s.engine.status with busy := true, done := false, lastop := 0x3 } } ∧
      (let S := s.engine.inputs
       let c := chaskey12 { q0 := S.data[0], q1 := S.data[1], q2 := S.data[2], q3 := S.data[3] }
         { q0 := S.key[0], q1 := S.key[1], q2 := S.key[2], q3 := S.key[3] }
       t.engine.complete = { s.engine with
         inflight := none
         status := { s.engine.status with busy := false, done := true, lastop := 0x3 }
         res := #v[c.q0, c.q1, c.q2, c.q3]
         info := { len := 0, nblk := 1 } })

/-- HASHN (R112), from its CMD write to its completion: H starts as zext_64(SEED0), takes one Davies–Meyer step
with Speck64 per 16-byte block, and ends in RES1:RES0. -/
def Obligations.HashnRunsToItsResult : Prop :=
  ∀ s : State, s.engine.status.busy = false →
    ∃ t, exec .hashn s = .next t ∧ encode .hashn = 0x00000004 ∧
      t = s.withEngine { s.engine with
        inflight := some { op := .hashn, snap := s.engine.inputs }
        status := { s.engine.status with busy := true, done := false, lastop := 0x4 } } ∧
      (let S := s.engine.inputs
       let p := padBlocks S 16
       let H := p.blocks.foldl
         (fun H b => H ^^^ speck64 H { q0 := le32 b 0, q1 := le32 b 4, q2 := le32 b 8, q3 := le32 b 12 })
         (S.seed[0].setWidth 64)
       t.engine.complete = { s.engine with
         inflight := none
         status := { s.engine.status with busy := false, done := true, lastop := 0x4 }
         res := #v[H.extractLsb' 0 32, H.extractLsb' 32 32, 0, 0]
         info := { len := BitVec.ofNat 7 p.len, nblk := BitVec.ofNat 4 p.blocks.length } })

/-- HASHWS (R115), from its CMD write to its completion, for whatever values the two domain constants have. -/
def Obligations.HashwsRunsToItsResult : Prop :=
  ∀ s : State, s.engine.status.busy = false →
    ∃ t, exec .hashws s = .next t ∧ encode .hashws = 0x00000005 ∧
      t = s.withEngine { s.engine with
        inflight := some { op := .hashws, snap := s.engine.inputs }
        status := { s.engine.status with busy := true, done := false, lastop := 0x5 } } ∧
      (let S := s.engine.inputs
       let p := padBlocks S 32
       let seed : Word64 := S.seed[1] ++ S.seed[0]
       let H := p.blocks.foldl
         (fun (H : Pair) b =>
           let c := speck128 H { q0 := le64 b 0, q1 := le64 b 8, q2 := le64 b 16, q3 := le64 b 24 }
           { h0 := H.h0 ^^^ c.h0, h1 := H.h1 ^^^ c.h1 })
         { h0 := Config.wconstB ^^^ seed, h1 := Config.wconstD ^^^ seed }
       t.engine.complete = { s.engine with
         inflight := none
         status := { s.engine.status with busy := false, done := true, lastop := 0x5 }
         res := #v[H.h0.extractLsb' 0 32, H.h0.extractLsb' 32 32, H.h1.extractLsb' 0 32, H.h1.extractLsb' 32 32]
         info := { len := BitVec.ofNat 7 p.len, nblk := BitVec.ofNat 4 p.blocks.length } })

/-- HASHWC (R118), from its CMD write to its completion, for whatever values the two domain constants have. -/
def Obligations.HashwcRunsToItsResult : Prop :=
  ∀ s : State, s.engine.status.busy = false →
    ∃ t, exec .hashwc s = .next t ∧ encode .hashwc = 0x00000006 ∧
      t = s.withEngine { s.engine with
        inflight := some { op := .hashwc, snap := s.engine.inputs }
        status := { s.engine.status with busy := true, done := false, lastop := 0x6 } } ∧
      (let S := s.engine.inputs
       let p := padBlocks S 16
       let seed : Word64 := S.seed[1] ++ S.seed[0]
       let H := p.blocks.foldl
         (fun (H : Pair) b =>
           let c := chaskey12
             { q0 := H.h0.extractLsb' 0 32, q1 := H.h0.extractLsb' 32 32
               q2 := H.h1.extractLsb' 0 32, q3 := H.h1.extractLsb' 32 32 }
             { q0 := le32 b 0, q1 := le32 b 4, q2 := le32 b 8, q3 := le32 b 12 }
           { h0 := H.h0 ^^^ (c.q1 ++ c.q0), h1 := H.h1 ^^^ (c.q3 ++ c.q2) })
         { h0 := Config.wconstB ^^^ seed, h1 := Config.wconstD ^^^ seed }
       t.engine.complete = { s.engine with
         inflight := none
         status := { s.engine.status with busy := false, done := true, lastop := 0x6 }
         res := #v[H.h0.extractLsb' 0 32, H.h0.extractLsb' 32 32, H.h1.extractLsb' 0 32, H.h1.extractLsb' 32 32]
         info := { len := BitVec.ofNat 7 p.len, nblk := BitVec.ofNat 4 p.blocks.length } })

/-- MACN (R127, R128, R129), from its CMD write to its completion: k1 and k2 from the two halves of the buffer, K
their bytes in order, and the secret encrypted under K in RES1:RES0. -/
def Obligations.MacnRunsToItsResult : Prop :=
  ∀ s : State, s.engine.status.busy = false →
    ∃ t, exec .macn s = .next t ∧ encode .macn = 0x00000007 ∧
      t = s.withEngine { s.engine with
        inflight := some { op := .macn, snap := s.engine.inputs }
        status := { s.engine.status with busy := true, done := false, lastop := 0x7 } } ∧
      (let S := s.engine.inputs
       let L := effLen S 15
       let buf := macBuffer S L
       let secret : Word64 := S.seed[1] ++ S.seed[0]
       let k1 := speck64 secret { q0 := le32 buf 0, q1 := le32 buf 4, q2 := le32 buf 8, q3 := le32 buf 12 }
       let k2 := speck64 secret { q0 := le32 buf 16, q1 := le32 buf 20, q2 := le32 buf 24, q3 := le32 buf 28 }
       let mac := speck64 secret
         { q0 := k1.extractLsb' 0 32, q1 := k1.extractLsb' 32 32
           q2 := k2.extractLsb' 0 32, q3 := k2.extractLsb' 32 32 }
       t.engine.complete = { s.engine with
         inflight := none
         status := { s.engine.status with busy := false, done := true, lastop := 0x7 }
         res := #v[mac.extractLsb' 0 32, mac.extractLsb' 32 32, 0, 0]
         info := { len := BitVec.ofNat 7 L, nblk := 3 } })

/-- The frame of all seven commands' CMD writes and completions (R137, R139, R140): IE, the input registers, the
hosts and the turns never change; a CMD write leaves RES and INFO, a rejection also DONE, LASTOP, BUSY and the
in-flight record, an acceptance ERR and ERRCODE; a completion leaves ERR, ERRCODE and LASTOP. -/
def Obligations.CommandFrame : Prop :=
  ∀ (i : Instr) (s t : State), exec i s = .next t →
    t.hosts = s.hosts ∧ t.turns = s.turns ∧ t.engine.ie = s.engine.ie ∧ t.engine.inputs = s.engine.inputs ∧
    t.engine.res = s.engine.res ∧ t.engine.info = s.engine.info ∧
    (∀ off, off % 4 = 0 → off ≠ 0x008 → readWindow t.engine off = readWindow s.engine off) ∧
    (s.engine.status.busy = true → t.engine.inflight = s.engine.inflight ∧
      t.engine.status = { s.engine.status with err := true, errcode := t.engine.status.errcode }) ∧
    (s.engine.status.busy = false →
      t.engine.status.err = s.engine.status.err ∧ t.engine.status.errcode = s.engine.status.errcode) ∧
    t.engine.complete.ie = s.engine.ie ∧ t.engine.complete.inputs = s.engine.inputs ∧
    t.engine.complete.status.err = t.engine.status.err ∧
    t.engine.complete.status.errcode = t.engine.status.errcode ∧
    t.engine.complete.status.lastop = t.engine.status.lastop

/-- A command issued while BUSY is turned away with code 3, whichever of the seven it is, and does nothing else
(R136, R140). -/
def Obligations.CommandWhileBusyIsRejected : Prop :=
  ∀ (i : Instr) (s : State), s.engine.status.busy = true →
    exec i s = .next (s.withEngine { s.engine with
      status := { s.engine.status with
        err := true
        errcode := if s.engine.status.err then s.engine.status.errcode else 3 } })

/-! ## Steps, turns and hosts -/

/-- A step runs the decoded command: when it is the turn of a host whose next statement is a legal write to CMD
(as `WR CMD`, as a mnemonic, or as a bus write at BASE + 0x00C) of a word that decodes to `i`, the step is
`exec i` of the state with the turn consumed and that host moved on. -/
def Obligations.StepRunsDecodedCommand : Prop :=
  ∀ (s : State) (h : Nat) (a : HostAgent) (i : Instr) (v : HostVal),
    s.nextTurn = .host h → s.hosts[h]? = some a →
    ((a.fetch = some (.wr .cmd v) ∧ decode (a.value v) = .op i) ∨
      (a.fetch = some (.busWrite (Config.base + 0x00C) 4 v) ∧ decode (a.value v) = .op i) ∨
      a.fetch = some (.cmd i)) →
    step s = exec i { s with turns := s.turns.tail, hosts := s.hosts.set h { a with pc := a.pc + 1 } }

/-- A table word placed by `withFetchWord` is the command that the very next step runs. -/
def Obligations.FetchWordIsRunNext : Prop :=
  ∀ (s : State) (nbits w : Nat) (i : Instr), decodeTableWord nbits w = some i →
    ∃ b, step (s.withFetchWord nbits w) = exec i { s with hosts := s.hosts ++ [b] } ∧ b.fetch = none

/-- A host's legal write (R54) changes the engine as `writeWindow` says, moves that host on, and changes nothing
else: no other host, and no turn to come. -/
def Obligations.HostWriteReachesTheWindow : Prop :=
  ∀ (s : State) (h : Nat) (a : HostAgent) (off : Nat) (v : Word),
    s.nextTurn = .host h → s.hosts[h]? = some a → a.pendingWrite = some (off, v) →
    off % 4 = 0 ∧ off < 0x100 ∧
    step s = writeWindow off v { s with turns := s.turns.tail, hosts := s.hosts.set h { a with pc := a.pc + 1 } }

/-- The host branches of R77: BNZ goes to its label if (name and mask) != 0 and BZ if it is 0, else to the next
statement; the engine and the other hosts stay. -/
def Obligations.HostBranches : Prop :=
  ∀ (s : State) (h : Nat) (a : HostAgent) (x l k : Nat) (m : Word),
    s.nextTurn = .host h → s.hosts[h]? = some a → labelIndex a.prog l = some k →
    (a.fetch = some (.bnz x m l) → step s = .next { s with
      turns := s.turns.tail
      hosts := s.hosts.set h { a with pc := if varOf a.vars x &&& m ≠ 0 then k else a.pc + 1 } }) ∧
    (a.fetch = some (.bz x m l) → step s = .next { s with
      turns := s.turns.tail
      hosts := s.hosts.set h { a with pc := if varOf a.vars x &&& m = 0 then k else a.pc + 1 } })

/-- A host's step touches no other host (R16): their programs, positions, variables and faults stay. -/
def Obligations.HostStepLeavesOtherHosts : Prop :=
  ∀ (s t : State) (h k : Nat), s.nextTurn = .host h → step s = .next t → k ≠ h → t.hosts[k]? = s.hosts[k]?

/-- No step is a fault of the machine, and a refused step is one of two (R135, R157): the host whose turn it is
makes the access of `addr`, which is outside the window, or takes a branch to `l`, a label its own program lacks. So
every other statement, turn and command completes in its own step. And both are refused by these names, which is
the model's choice where no rule applies (R52 and notes/assumptions/9; R77 and notes/assumptions/11). -/
def Obligations.StepStopsOnlyOutsideTheSpec : Prop :=
  (∀ s : State, (∀ r, step s ≠ .fault r) ∧
    ∀ r, step s = .refused r →
      ∃ (h : Nat) (a : HostAgent), s.nextTurn = .host h ∧ s.hosts[h]? = some a ∧
        ((∃ addr size : Nat, r = .outsideWindow addr ∧ (addr < Config.base ∨ Config.base + 0x100 ≤ addr) ∧
            ((∃ x, a.fetch = some (.busRead addr size x)) ∨ (∃ v, a.fetch = some (.busWrite addr size v)))) ∨
          (∃ l : Nat, r = .undefinedLabel l ∧ HostStmt.label l ∉ a.prog ∧
            ((∃ x m, a.fetch = some (.bnz x m l) ∧ varOf a.vars x &&& m ≠ 0) ∨
              (∃ x m, a.fetch = some (.bz x m l) ∧ varOf a.vars x &&& m = 0))))) ∧
  (∀ (s : State) (h : Nat) (a : HostAgent) (addr size : Nat),
    s.nextTurn = .host h → s.hosts[h]? = some a → (addr < Config.base ∨ Config.base + 0x100 ≤ addr) →
    ((∃ x, a.fetch = some (.busRead addr size x)) ∨ (∃ v, a.fetch = some (.busWrite addr size v))) →
    step s = .refused (.outsideWindow addr)) ∧
  (∀ (s : State) (h : Nat) (a : HostAgent) (l : Nat),
    s.nextTurn = .host h → s.hosts[h]? = some a → HostStmt.label l ∉ a.prog →
    ((∃ x m, a.fetch = some (.bnz x m l) ∧ varOf a.vars x &&& m ≠ 0) ∨
      (∃ x m, a.fetch = some (.bz x m l) ∧ varOf a.vars x &&& m = 0)) →
    step s = .refused (.undefinedLabel l))

/-- A branch of a well-formed host program finds its label (R77). -/
def Obligations.WellFormedProgramsFindTheirLabels : Prop :=
  ∀ (p : List HostStmt) (t : HostStmt) (l : Nat), hostProgramWf p = true → t ∈ p → t.targetOf = some l →
    ∃ k, labelIndex p l = some k ∧ p[k]? = some (.label l) ∧ ∀ j, p[j]? = some (.label l) → j = k

/-- `LDSTR` (R78): its sixteen writes, made in order to any engine, leave the text's bytes in the message buffer
and zeros after them, change no other register, and use no other statement. -/
def Obligations.LdstrLoadsTheMessage : Prop :=
  ∀ (text : List Byte) (e : Engine), ldstrTextWf text = true →
    ∃ ws : List (Reg × Word), ldstr text = ws.map (fun p => HostStmt.wr p.1 (.imm p.2)) ∧ ws.length = 16 ∧
      (let d := ws.foldl (fun e p => e.write p.1 p.2) e
       (∀ i, i < 64 → msgByte d.inputs i = text.getD i 0) ∧
       d.inputs.seed = e.inputs.seed ∧ d.inputs.data = e.inputs.data ∧ d.inputs.key = e.inputs.key ∧
       d.ie = e.ie ∧ d.status = e.status ∧ d.res = e.res ∧ d.info = e.info ∧ d.inflight = e.inflight)

/-! ## Reset (70_reset_and_hazards.md) -/

/-- R46: the state after reset. Every offset of the window reads 0 but ID and the two constants, nothing is in
flight, and irq is 0. -/
def Obligations.ResetStateValues : Prop :=
  State.reset.engine = Engine.reset ∧
  (∀ off, off % 4 = 0 → off ≠ 0x000 → ¬(0x060 ≤ off ∧ off ≤ 0x06C) → readWindow Engine.reset off = 0) ∧
  readWindow Engine.reset 0x000 = 0x4D415255 ∧
  readWindow Engine.reset 0x064 ++ readWindow Engine.reset 0x060 = Config.wconstB ∧
  readWindow Engine.reset 0x06C ++ readWindow Engine.reset 0x068 = Config.wconstD ∧
  Engine.reset.inflight = none ∧ Engine.reset.irq = false

/-- Reset is one step, which brings the whole engine to the reset state whatever was in flight; its results are
never written (R160). That the hosts stay as they were and the other turns stay to come is the model's choice
(notes/assumptions/15, DESIGN CHOICE, unsafe): R160 speaks of the engine alone. -/
def Obligations.ResetDiscardsTheCommand : Prop :=
  ∀ s : State, s.nextTurn = .reset → step s = .next { s with turns := s.turns.tail, engine := Engine.reset }

/-- R162: straight after reset, ENC64 encrypts zero under the zero key and HASHN hashes the empty string, of
effective length 0, under IV 0. The result registers read 0 before any completion. -/
def Obligations.CommandsStraightAfterReset : Prop :=
  (∀ i : Fin 4, readWindow State.reset.engine (0x030 + 4 * i.val) = 0) ∧
  readWindow State.reset.engine 0x018 = 0 ∧
  (∃ t, exec .enc64 State.reset = .next t ∧ t.engine.complete.res =
    #v[(speck64 0 { q0 := 0, q1 := 0, q2 := 0, q3 := 0 }).extractLsb' 0 32,
       (speck64 0 { q0 := 0, q1 := 0, q2 := 0, q3 := 0 }).extractLsb' 32 32, 0, 0]) ∧
  (∃ t, exec .hashn State.reset = .next t ∧ t.engine.complete.info = { len := 0, nblk := 1 } ∧
    t.engine.complete.res =
      #v[(speck64 0 { q0 := 0x80, q1 := 0, q2 := 0, q3 := 0 }).extractLsb' 0 32,
         (speck64 0 { q0 := 0x80, q1 := 0, q2 := 0, q3 := 0 }).extractLsb' 32 32, 0, 0])

/-! ## The interrupt -/

/-- R143 and R144: irq is IE and (DONE or ERR). Clearing both pending bits drops it, so does writing IE 0, so does
an acceptance while ERR = 0; writing IE 1 while one is set raises it. -/
def Obligations.IrqLevel : Prop :=
  ∀ (s : State) (v : Word),
    (s.engine.irq = true ↔ s.engine.ie = true ∧ (s.engine.status.done = true ∨ s.engine.status.err = true)) ∧
    (v.getLsbD 1 = true → v.getLsbD 2 = true →
      ∃ t, writeWindow 0x008 v s = .next t ∧ t.engine.irq = false) ∧
    (v.getLsbD 0 = false → ∃ t, writeWindow 0x004 v s = .next t ∧ t.engine.irq = false) ∧
    (∀ i, s.engine.status.busy = false → s.engine.status.err = false →
      ∃ t, writeWindow 0x00C (encode i) s = .next t ∧ t.engine.irq = false) ∧
    (v.getLsbD 0 = true → s.engine.status.done = true ∨ s.engine.status.err = true →
      ∃ t, writeWindow 0x004 v s = .next t ∧ t.engine.irq = true)

/-! ## Whole-machine rules over every step -/

/-- The invariant holds after reset. -/
def Obligations.ResetMeetsTheInvariant : Prop := State.reset.Inv

/-- Every step keeps the invariant: BUSY exactly while a command is in flight, no DONE while BUSY, LASTOP the
in-flight opcode, ERRCODE 0 exactly while ERR = 0 and else one of three codes, INFO within its bounds, and the
hosts' variables in canonical form. -/
def Obligations.StepKeepsTheInvariant : Prop := ∀ s t : State, s.Inv → step s = .next t → t.Inv

/-- R35, R36 and R39: RES and INFO change only in a completion, which writes the result of the in-flight command
and its snapshot together with BUSY and DONE, or in a reset. -/
def Obligations.ResultsChangeOnlyAtCompletion : Prop :=
  ∀ s t : State, step s = .next t → (t.engine.res ≠ s.engine.res ∨ t.engine.info ≠ s.engine.info) →
    (s.nextTurn = .engine ∧ ∃ f, s.engine.inflight = some f ∧
      t.engine.res = (result f.op f.snap).res ∧ t.engine.info = (result f.op f.snap).info ∧
      t.engine.status.busy = false ∧ t.engine.status.done = true ∧ t.engine.inflight = none) ∨
    (s.nextTurn = .reset ∧ t.engine = Engine.reset)

/-- R39: the engine never writes an input register: one that changes was written by a host's bus write at its own
offset, with the value it now has, or was cleared by reset. -/
def Obligations.InputsChangeOnlyByHostWrites : Prop :=
  ∀ (s t : State) (r : Reg), step s = .next t →
    ((∃ i, r = .seed i) ∨ (∃ i, r = .data i) ∨ (∃ i, r = .key i) ∨ (∃ i, r = .msg i)) →
    readWindow t.engine r.offset ≠ readWindow s.engine r.offset →
    s.pendingWrite = some (r.offset, readWindow t.engine r.offset) ∨
    (s.nextTurn = .reset ∧ readWindow t.engine r.offset = 0)

/-- R25: while BUSY is 0 a step sets it exactly when it accepts a command, and while BUSY is 1 a step clears it
exactly when it is the completion or a reset. -/
def Obligations.BusyWriters : Prop :=
  ∀ s t : State, step s = .next t →
    (s.engine.status.busy = false →
      (t.engine.status.busy = true ↔ ∃ i, s.pendingWrite = some (0x00C, encode i)) ∧
      (∀ i, s.pendingWrite = some (0x00C, encode i) →
        t.engine.inflight = some { op := i, snap := s.engine.inputs })) ∧
    (s.engine.status.busy = true →
      (t.engine.status.busy = false ↔
        (s.nextTurn = .engine ∧ s.engine.inflight ≠ none) ∨ s.nextTurn = .reset))

/-- R26: a step sets DONE exactly when it is a completion, and clears it exactly when it is an acceptance, a STATUS
write with v[1] = 1, or a reset (R160). -/
def Obligations.DoneWriters : Prop :=
  ∀ s t : State, step s = .next t →
    (s.engine.status.done = false →
      (t.engine.status.done = true ↔ s.nextTurn = .engine ∧ s.engine.inflight ≠ none)) ∧
    (s.engine.status.done = true →
      (t.engine.status.done = false ↔
        (∃ i, s.pendingWrite = some (0x00C, encode i) ∧ s.engine.status.busy = false) ∨
        (∃ v, s.pendingWrite = some (0x008, v) ∧ v.getLsbD 1 = true) ∨
        s.nextTurn = .reset))

/-- R27: a step sets ERR exactly when it is a rejected CMD write, and clears it exactly when it is a STATUS write
with v[2] = 1 or a reset. And while ERR stays 1, ERRCODE keeps the first code (R28). -/
def Obligations.ErrWriters : Prop :=
  ∀ s t : State, step s = .next t →
    (s.engine.status.err = false →
      (t.engine.status.err = true ↔
        ∃ v, s.pendingWrite = some (0x00C, v) ∧ (s.engine.status.busy = true ∨ ∀ i, decode v ≠ .op i))) ∧
    (s.engine.status.err = true →
      (t.engine.status.err = false ↔
        (∃ v, s.pendingWrite = some (0x008, v) ∧ v.getLsbD 2 = true) ∨ s.nextTurn = .reset)) ∧
    (s.engine.status.err = true → t.engine.status.err = true →
      t.engine.status.errcode = s.engine.status.errcode)

/-- R29: an accepted command sets LASTOP to its opcode, reset clears it to 0, and no other step changes it. -/
def Obligations.LastopWriters : Prop :=
  ∀ s t : State, step s = .next t →
    (∀ i, s.pendingWrite = some (0x00C, encode i) → s.engine.status.busy = false →
      t.engine.status.lastop = opcode i) ∧
    (s.nextTurn = .reset → t.engine.status.lastop = 0) ∧
    (t.engine.status.lastop ≠ s.engine.status.lastop →
      (∃ i, s.pendingWrite = some (0x00C, encode i) ∧ s.engine.status.busy = false) ∨ s.nextTurn = .reset)

/-- R41 and R63: while a command is in flight no step of any host changes its record, so no host write affects its
result; the record goes only with the completion, which commits its result, or with reset. -/
def Obligations.InFlightCommandIsUndisturbed : Prop :=
  ∀ (s t : State) (f : InFlight), s.Inv → step s = .next t → s.engine.inflight = some f →
    (∃ h, s.nextTurn = .host h ∧ t.engine.inflight = some f ∧ t.engine.status.busy = true) ∨
    (s.nextTurn = .engine ∧ t.engine.inflight = none ∧ t.engine.res = (result f.op f.snap).res ∧
      t.engine.info = (result f.op f.snap).info) ∨
    (s.nextTurn = .reset ∧ t.engine = Engine.reset)

/-- An accepted command completes (R138, R157). Whatever the hosts do, and however the turns to come are mixed, as
long as none of them is a reset: within one step more than there are turns to come the result of the command and
its snapshot stands in RES and INFO with BUSY = 0 and DONE = 1, or a step was refused, for whatever reason. The bound
rests on the model's choice that a completion is taken once no turn is fixed any more (notes/assumptions/5, DESIGN
CHOICE), its reading of R138's "eventually". -/
def Obligations.AcceptedCommandCompletes : Prop :=
  ∀ (s : State) (f : InFlight), s.Inv → s.engine.inflight = some f → Turn.reset ∉ s.turns →
    ∃ n, n ≤ s.turns.length + 1 ∧
      ((∃ t, run n s = .next t ∧ t.engine.inflight = none ∧
          t.engine.res = (result f.op f.snap).res ∧ t.engine.info = (result f.op f.snap).info ∧
          t.engine.status.busy = false ∧ t.engine.status.done = true) ∨
        ∃ r, run n s = .refused r)

/-! ## The ciphers (40_ciphers.md) -/

/-- `Speck64` (R85): 27 rounds of the source's round and key schedule, written with the library's rotations. -/
def Obligations.Speck64RoundByRound : Prop :=
  ∀ (p : Word64) (k : Quad 32), ∃ t : Nat → SpeckState 32,
    t 0 = { x0 := p.extractLsb' 0 32, x1 := p.extractLsb' 32 32, k0 := k.q0, k1 := k.q1, k2 := k.q2, k3 := k.q3 } ∧
    (∀ i, i < 27 →
      (t (i + 1)).x0 = ((t i).x0.rotateRight 8 + (t i).x1) ^^^ (t i).k0 ∧
      (t (i + 1)).x1 = (t i).x1.rotateLeft 3 ^^^ (t (i + 1)).x0 ∧
      (t (i + 1)).k3 = ((t i).k1.rotateRight 8 + (t i).k0) ^^^ BitVec.ofNat 32 i ∧
      (t (i + 1)).k0 = (t i).k0.rotateLeft 3 ^^^ (t (i + 1)).k3 ∧
      (t (i + 1)).k1 = (t i).k2 ∧ (t (i + 1)).k2 = (t i).k3) ∧
    speck64 p k = (t 27).x1 ++ (t 27).x0

/-- `Speck128` (R88): 34 rounds on 64-bit words, the key XORed into x0 before x1 is updated, x1 rotated left by
3, that is right by 61 (R89). -/
def Obligations.Speck128RoundByRound : Prop :=
  ∀ (p : Pair) (k : Quad 64), ∃ t : Nat → SpeckState 64,
    t 0 = { x0 := p.h0, x1 := p.h1, k0 := k.q0, k1 := k.q1, k2 := k.q2, k3 := k.q3 } ∧
    (∀ i, i < 34 →
      (t (i + 1)).x0 = ((t i).x0.rotateRight 8 + (t i).x1) ^^^ (t i).k0 ∧
      (t (i + 1)).x1 = (t i).x1.rotateLeft 3 ^^^ (t (i + 1)).x0 ∧
      (t i).x1.rotateLeft 3 = (t i).x1.rotateRight 61 ∧
      (t (i + 1)).k3 = ((t i).k1.rotateRight 8 + (t i).k0) ^^^ BitVec.ofNat 64 i ∧
      (t (i + 1)).k0 = (t i).k0.rotateLeft 3 ^^^ (t (i + 1)).k3 ∧
      (t (i + 1)).k1 = (t i).k2 ∧ (t (i + 1)).k2 = (t i).k3) ∧
    (speck128 p k).h0 = (t 34).x0 ∧ (speck128 p k).h1 = (t 34).x1

/-- `Chaskey12` (R91, R92): whitening, 12 rounds of profile A in the order of its lines, whitening. -/
def Obligations.ChaskeyRoundByRound : Prop :=
  ∀ p k : Quad 32, ∃ t : Nat → Quad 32,
    t 0 = { q0 := p.q0 ^^^ k.q0, q1 := p.q1 ^^^ k.q1, q2 := p.q2 ^^^ k.q2, q3 := p.q3 ^^^ k.q3 } ∧
    (∀ i, i < 12 →
      let v0 := (t i).q0 + (t i).q1
      let v1 := (t i).q1.rotateLeft 5 ^^^ v0
      let v2 := (t i).q2 + (t i).q3
      let v3 := (t i).q3.rotateLeft 8 ^^^ v2
      let w0 := v0.rotateLeft 16 + v3
      let w2 := v2 + v1
      t (i + 1) = { q0 := w0, q1 := v1.rotateLeft 7 ^^^ w2, q2 := w2.rotateLeft 16, q3 := v3.rotateLeft 13 ^^^ w0 }) ∧
    chaskey12 p k = { q0 := (t 12).q0 ^^^ k.q0, q1 := (t 12).q1 ^^^ k.q1, q2 := (t 12).q2 ^^^ k.q2,
                      q3 := (t 12).q3 ^^^ k.q3 }

/-- R87 and R90: for each fixed key Speck64 and Speck128 are permutations of their blocks. -/
def Obligations.SpeckIsAPermutation : Prop :=
  (∀ k : Quad 32, Function.Bijective fun p => speck64 p k) ∧
  (∀ k : Quad 64, Function.Bijective fun p => speck128 p k)

/-- R93: for each fixed key Chaskey12 is a permutation of its blocks. -/
def Obligations.ChaskeyIsAPermutation : Prop :=
  ∀ k : Quad 32, Function.Bijective fun p => chaskey12 p k

/-- R93 and R101: whenever p = k, Chaskey12(p, k) = k, since ChaskeyRound(0, 0, 0, 0) = (0, 0, 0, 0); and flipping
bit 0 of DATA0 and flipping bit 0 of KEY0 give results that differ only in bit 0 of RES0. -/
def Obligations.ChaskeyWhitening : Prop :=
  (∀ k : Quad 32, chaskey12 k k = k) ∧
  (∀ p k : Quad 32,
    let a := chaskey12 { p with q0 := p.q0 ^^^ 1 } k
    let b := chaskey12 p { k with q0 := k.q0 ^^^ 1 }
    a.q0 ^^^ b.q0 = 1 ∧ a.q1 = b.q1 ∧ a.q2 = b.q2 ∧ a.q3 = b.q3)

/-- R73: each command's result depends on the operands the table lists for it, and on no other register. -/
def Obligations.ResultsDependOnListedOperands : Prop :=
  ∀ S T : Inputs,
    (S.data[0] = T.data[0] → S.data[1] = T.data[1] → S.key[0] = T.key[0] → S.key[1] = T.key[1] →
      S.key[2] = T.key[2] → S.key[3] = T.key[3] → result .enc64 S = result .enc64 T) ∧
    (S.data = T.data → S.key = T.key → result .enc128 S = result .enc128 T) ∧
    (S.data = T.data → S.key[0] = T.key[0] → S.key[1] = T.key[1] → S.key[2] = T.key[2] →
      S.key[3] = T.key[3] → result .encck S = result .encck T) ∧
    (S.msg = T.msg → S.seed[0] = T.seed[0] → result .hashn S = result .hashn T) ∧
    (S.msg = T.msg → S.seed = T.seed → result .hashws S = result .hashws T) ∧
    (S.msg = T.msg → S.seed = T.seed → result .hashwc S = result .hashwc T) ∧
    ((∀ i, i < 15 → msgByte S i = msgByte T i) → S.seed = T.seed → result .macn S = result .macn T)

/-! ## Padding, hashes and the MAC (41_hash.md, 42_mac.md) -/

/-- R105: L is the index of the first zero byte below cap, or cap when there is none. -/
def Obligations.EffLenIsFirstZeroByte : Prop :=
  ∀ (S : Inputs) (cap L : Nat),
    effLen S cap = L ↔ L ≤ cap ∧ (∀ i, i < L → msgByte S i ≠ 0) ∧ (L < cap → msgByte S L = 0)

/-- R106 and R108: every block has B bytes, and the blocks in order are the L message bytes, 0x80, zeros, and the
32-bit little-endian length 8 * L in the last four bytes. -/
def Obligations.PadBlocksLayout : Prop :=
  ∀ (S : Inputs) (B : Nat), (B = 16 ∨ B = 32) →
    let p := padBlocks S B
    p.len = effLen S 64 ∧ p.len ≤ 64 ∧ (∀ b ∈ p.blocks, b.length = B) ∧
    p.blocks.flatten = (List.range p.len).map (msgByte S) ++ [0x80] ++
      List.replicate (B * p.blocks.length - p.len - 5) 0 ++
      [(BitVec.ofNat 32 (8 * p.len)).extractLsb' 0 8, (BitVec.ofNat 32 (8 * p.len)).extractLsb' 8 8,
       (BitVec.ofNat 32 (8 * p.len)).extractLsb' 16 8, (BitVec.ofNat 32 (8 * p.len)).extractLsb' 24 8]

/-- R109: the number of blocks, and its bounds for the two block sizes. -/
def Obligations.PadBlocksCount : Prop :=
  ∀ (S : Inputs) (B : Nat), (B = 16 ∨ B = 32) →
    let p := padBlocks S B
    p.blocks.length = p.len / B + 1 + (if p.len % B ≥ B - 4 then 1 else 0) ∧ p.len ≤ 64 ∧
    1 ≤ p.blocks.length ∧ (B = 16 → p.blocks.length ≤ 5) ∧ (B = 32 → p.blocks.length ≤ 3)

/-- R110: the state-machine form feeds the compression step exactly the blocks of PadBlocks, in the same order,
whatever the compression step is, and ends TERMINATED. -/
def Obligations.PadStateMachineFeedsPadBlocks : Prop :=
  ∀ (α : Type) (comp : α → List Byte → α) (S : Inputs) (B : Nat) (H : α), (B = 16 ∨ B = 32) →
    (padWalk comp S B H).chain = (padBlocks S B).blocks.foldl comp H ∧
    (padWalk comp S B H).phase = .terminated ∧ (padWalk comp S B H).len = effLen S 64

/-- R121 (and R65): two snapshots that agree on the seed and on the bytes below the first one's L, the second
having a zero byte at L or L being 64, give the same hash, whichever of the three it is. -/
def Obligations.HashTruncationEquivalence : Prop :=
  ∀ S T : Inputs, S.seed = T.seed →
    (∀ i, i < effLen S 64 → msgByte T i = msgByte S i) →
    (msgByte T (effLen S 64) = 0 ∨ effLen S 64 = 64) →
    result .hashn T = result .hashn S ∧ result .hashws T = result .hashws S ∧
    result .hashwc T = result .hashwc S

/-- R126: every byte of the 32-byte buffer: the message bytes below L, 0x80 at byte 31, and 8 * L XORed into
byte 8, zero elsewhere. -/
def Obligations.MacBufferLayout : Prop :=
  ∀ S : Inputs, let L := effLen S 15
    L ≤ 15 ∧ (macBuffer S L).length = 32 ∧
    ∀ i, i < 32 → (macBuffer S L).getD i 0 =
      (if i < L then msgByte S i else 0) ^^^ (if i = 31 then 0x80 else 0) ^^^
        (if i = 8 then BitVec.ofNat 8 (8 * L) else 0)

/-- R125 and R130: the MAC stops at the first zero byte or at 15 bytes, so bytes from there on never affect its
result; and k2 depends on the secret only. -/
def Obligations.MacTruncation : Prop :=
  (∀ S T : Inputs, S.seed = T.seed → (∀ i, i < effLen S 15 → msgByte T i = msgByte S i) →
    (msgByte T (effLen S 15) = 0 ∨ effLen S 15 = 15) → result .macn T = result .macn S) ∧
  (∀ (secret : Word64) (S T : Inputs),
    macK2 secret (macBuffer S (effLen S 15)) = macK2 secret (macBuffer T (effLen T 15)))

/-! ## The end of a run -/

/-- R156: when every host has stopped or faulted, BUSY = 0 and no turn is to come, the machine is at rest: a step
changes nothing. That a machine with nothing to do takes an idle step is the model's choice (notes/assumptions/5,
DESIGN CHOICE). -/
def Obligations.EndedRunRests : Prop :=
  ∀ s : State, s.Inv → RunOver s → s.turns = [] → step s = .next s
end

