-- ==== Sys2Proof/Laws/Bits.lean ====
section
/-! SUPPORT. The byte-string and word primitives: lengths, and reading back what was laid out. -/

namespace Sys2Proof.Machine

@[simp] theorem length_zeros (n : Nat) : (zeros n).length = n := List.length_replicate

@[simp] theorem length_bytesLE32 (w : Word) : (bytesLE32 w).length = 4 := rfl

@[simp] theorem length_bytesLE64 (w : Word64) : (bytesLE64 w).length = 8 := rfl

@[simp] theorem length_msgBytes (S : Inputs) (L : Nat) : (msgBytes S L).length = L := by simp [msgBytes]

/-- The rotation of R11 is the library's, for a count below the width. -/
theorem rotl_eq_rotateLeft {w : Nat} (a : BitVec w) {r : Nat} (h : r < w) : rotl a r = a.rotateLeft r := by
  rw [BitVec.rotateLeft_def, Nat.mod_eq_of_lt h, rotl]

/-- See `rotl_eq_rotateLeft`. -/
theorem rotr_eq_rotateRight {w : Nat} (a : BitVec w) {r : Nat} (h0 : 0 < r) (h : r < w) :
    rotr a r = a.rotateRight r := by
  rw [rotr, rotl, BitVec.rotateRight_def, Nat.mod_eq_of_lt h, BitVec.or_comm, show w - (w - r) = r by omega]

/-- The four bytes of a word make the word (R12). -/
theorem append_bytes (w : Word) :
    w.extractLsb' 24 8 ++ w.extractLsb' 16 8 ++ w.extractLsb' 8 8 ++ w.extractLsb' 0 8 = w := by
  ext i hi
  simp only [BitVec.getElem_append, BitVec.getElem_extractLsb']
  split
  · rw [BitVec.getLsbD_eq_getElem (by omega)]; simp
  · split
    · rw [BitVec.getLsbD_eq_getElem (by omega)]; congr 1; omega
    · split
      · rw [BitVec.getLsbD_eq_getElem (by omega)]; congr 1; omega
      · rw [BitVec.getLsbD_eq_getElem (by omega)]; congr 1; omega

/-- `high:low` of a 64-bit value is the value (R10). -/
@[simp] theorem pair64_hi_lo (v : Word64) : pair64 (hi64 v) (lo64 v) = v := by
  unfold pair64 hi64 lo64
  ext i hi
  simp only [BitVec.getElem_append, BitVec.getElem_extractLsb']
  split
  · rw [BitVec.getLsbD_eq_getElem (by omega)]; simp
  · rw [BitVec.getLsbD_eq_getElem (by omega)]; congr 1; omega

/-- `LE32` reads back `bytesLE32`, wherever it stands (R12). -/
theorem le32_bytesLE32 (w : Word) (a s : List Byte) : le32 (a ++ (bytesLE32 w ++ s)) a.length = w := by
  simp [le32, byteAt, bytesLE32, List.getD_eq_getElem?_getD, append_bytes]

/-- `LE32` of a substring is `LE32` of the string, further on (R12). -/
theorem le32_slice (b : List Byte) {k a n : Nat} (h : a + 4 ≤ n) : le32 (slice b k n) a = le32 b (k + a) := by
  have hj : ∀ j, j < n → byteAt (slice b k n) j = byteAt b (k + j) := fun j hj => by
    simp [byteAt, slice, List.getD_eq_getElem?_getD, hj]
  simp only [le32, hj _ (show a + 3 < n by omega), hj _ (show a + 2 < n by omega),
    hj _ (show a + 1 < n by omega), hj _ (show a < n by omega), Nat.add_assoc]

/-- The key words of K = bytesLE64(k1) ++ bytesLE64(k2): "(k1[31:0], k1[63:32], k2[31:0], k2[63:32])" (R127). -/
theorem keyWords32_bytesLE64 (x y : Word64) :
    keyWords32 (bytesLE64 x ++ bytesLE64 y) = { q0 := lo64 x, q1 := hi64 x, q2 := lo64 y, q3 := hi64 y } := by
  simp only [keyWords32, bytesLE64, Quad.mk.injEq]
  refine ⟨?_, ?_, ?_, ?_⟩
  · simpa using le32_bytesLE32 (lo64 x) [] (bytesLE32 (hi64 x) ++ (bytesLE32 (lo64 y) ++ bytesLE32 (hi64 y)))
  · simpa using le32_bytesLE32 (hi64 x) (bytesLE32 (lo64 x)) (bytesLE32 (lo64 y) ++ bytesLE32 (hi64 y))
  · simpa using le32_bytesLE32 (lo64 y) (bytesLE32 (lo64 x) ++ bytesLE32 (hi64 x)) (bytesLE32 (hi64 y))
  · simpa using le32_bytesLE32 (hi64 y) (bytesLE32 (lo64 x) ++ bytesLE32 (hi64 x) ++ bytesLE32 (lo64 y)) []

end Sys2Proof.Machine
end

