-- ==== Sys2Proof/Laws/Ciphers.lean ====
section
/-! SUPPORT. The rounds of the three ciphers one at a time: provers cite these and never unfold a whole cipher. -/

namespace Sys2Proof.Machine

/-- The last of `n + 1` rounds, taken apart. -/
theorem speckRounds_succ {w : Nat} (n i : Nat) (t : SpeckState w) :
    speckRounds (n + 1) i t = speckRound (i + n) (speckRounds n i t) := by
  induction n generalizing i t with
  | zero => rfl
  | succ n ih => rw [speckRounds, ih, speckRounds, show i + 1 + n = i + (n + 1) by omega]

/-- The last of `n + 1` rounds, taken apart. -/
theorem chaskeyRounds_succ (n : Nat) (v : Quad 32) :
    chaskeyRounds (n + 1) v = chaskeyRound (chaskeyRounds n v) := by
  induction n generalizing v with
  | zero => rfl
  | succ n ih => rw [chaskeyRounds, ih, chaskeyRounds]

end Sys2Proof.Machine
end

