-- ==== Sys2Proof/Laws/HostVars.lean ====
section
/-! SUPPORT. A host's variables: reading back a written one, and the canonical form of the list. -/

namespace Sys2Proof.Machine

theorem varOf_dropVar_self (vs : List (Nat × Word)) (x : Nat) : varOf (dropVar vs x) x = 0 := by
  induction vs with
  | nil => rfl
  | cons p vs ih =>
    obtain ⟨y, w⟩ := p
    by_cases h : y = x
    · simpa [dropVar, h] using ih
    · simpa [dropVar, h, varOf] using ih

theorem varOf_dropVar_ne {x y : Nat} (vs : List (Nat × Word)) (h : y ≠ x) :
    varOf (dropVar vs x) y = varOf vs y := by
  induction vs with
  | nil => rfl
  | cons p vs ih =>
    obtain ⟨z, w⟩ := p
    by_cases hz : z = x
    · have : z ≠ y := fun e => h (e ▸ hz)
      simpa [dropVar, hz, varOf, this, h.symm] using ih
    · by_cases hy : z = y <;> simp_all [dropVar, varOf]

theorem varOf_insertVar_self {x : Nat} {w : Word} {vs : List (Nat × Word)} (h : ∀ p ∈ vs, p.1 ≠ x) :
    varOf (insertVar x w vs) x = w := by
  induction vs with
  | nil => simp [insertVar, varOf]
  | cons p vs ih =>
    obtain ⟨y, u⟩ := p
    have hy : y ≠ x := h (y, u) (by simp)
    by_cases hlt : x < y
    · simp [insertVar, hlt, varOf]
    · simpa [insertVar, hlt, varOf, hy] using ih fun q hq => h q (by simp [hq])

theorem varOf_insertVar_ne {x y : Nat} {w : Word} (vs : List (Nat × Word)) (h : y ≠ x) :
    varOf (insertVar x w vs) y = varOf vs y := by
  induction vs with
  | nil => simp [insertVar, varOf, h.symm]
  | cons p vs ih =>
    obtain ⟨z, u⟩ := p
    by_cases hlt : x < z
    · simp [insertVar, hlt, varOf, h.symm]
    · simp [insertVar, hlt, varOf, ih]

theorem dropVar_ne {vs : List (Nat × Word)} {x : Nat} : ∀ p ∈ dropVar vs x, p.1 ≠ x := by
  intro p hp
  simpa [dropVar] using (List.mem_filter.mp hp).2

/-- A host variable reads back what was written. -/
theorem varOf_setVar_self (vs : List (Nat × Word)) (x : Nat) (w : Word) : varOf (setVar vs x w) x = w := by
  unfold setVar
  split
  · rename_i h
    rw [varOf_dropVar_self, h]
  · exact varOf_insertVar_self dropVar_ne

/-- Every other host variable keeps its value. -/
theorem varOf_setVar_ne (vs : List (Nat × Word)) {x y : Nat} (w : Word) (h : y ≠ x) :
    varOf (setVar vs x w) y = varOf vs y := by
  unfold setVar
  split
  · exact varOf_dropVar_ne vs h
  · rw [varOf_insertVar_ne _ h, varOf_dropVar_ne vs h]

theorem mem_insertVar {x : Nat} {w : Word} {vs : List (Nat × Word)} {p : Nat × Word} :
    p ∈ insertVar x w vs ↔ p = (x, w) ∨ p ∈ vs := by
  induction vs with
  | nil => simp [insertVar]
  | cons q vs ih =>
    obtain ⟨y, u⟩ := q
    by_cases hlt : x < y
    · simp [insertVar, hlt]
    · simp only [insertVar, hlt, if_false, List.mem_cons, ih]
      tauto

theorem insertVar_sorted {x : Nat} {w : Word} {vs : List (Nat × Word)}
    (hs : vs.Pairwise fun p q => p.1 < q.1) (hne : ∀ p ∈ vs, p.1 ≠ x) :
    (insertVar x w vs).Pairwise fun p q => p.1 < q.1 := by
  induction vs with
  | nil => simp [insertVar]
  | cons q vs ih =>
    obtain ⟨y, u⟩ := q
    obtain ⟨hy, hvs⟩ := List.pairwise_cons.mp hs
    by_cases hlt : x < y
    · simp only [insertVar, hlt, if_true, List.pairwise_cons]
      refine ⟨?_, hy, hvs⟩
      intro p hp
      rcases List.mem_cons.mp hp with rfl | hp
      · exact hlt
      · exact lt_trans hlt (hy p hp)
    · have hyx : y < x := lt_of_le_of_ne (not_lt.mp hlt) (hne (y, u) (by simp))
      simp only [insertVar, hlt, if_false, List.pairwise_cons]
      refine ⟨?_, ih hvs fun p hp => hne p (by simp [hp])⟩
      intro p hp
      rcases mem_insertVar.mp hp with rfl | hp
      · exact hyx
      · exact hy p hp

/-- Writing a host variable keeps the canonical form. -/
theorem varsWf_setVar {vs : List (Nat × Word)} (h : varsWf vs) (x : Nat) (w : Word) :
    varsWf (setVar vs x w) := by
  obtain ⟨hs, hz⟩ := h
  have hd : varsWf (dropVar vs x) :=
    ⟨hs.filter _, fun p hp => hz p (List.mem_of_mem_filter hp)⟩
  unfold setVar
  split
  · exact hd
  · rename_i hw
    refine ⟨insertVar_sorted hd.1 dropVar_ne, fun p hp => ?_⟩
    rcases mem_insertVar.mp hp with rfl | hp
    · exact hw
    · exact hd.2 p hp

end Sys2Proof.Machine
end

