-- ==== Sys2Proof/Laws/Mac.lean ====
section
/-! SUPPORT. The MAC in terms of the words of its buffer. Unfold these definitions by the lemmas here and by
dsimp, not by one simp set: a kernel check that has to unfold speck64 does not end. -/

namespace Sys2Proof.Machine

/-- The key words of the buffer's first half (R127). -/
theorem keyWords32_slice_low (b : List Byte) :
    keyWords32 (slice b 0 16) = { q0 := le32 b 0, q1 := le32 b 4, q2 := le32 b 8, q3 := le32 b 12 } := by
  simp [keyWords32, le32_slice _ (show 0 + 4 ≤ 16 by omega), le32_slice _ (show 4 + 4 ≤ 16 by omega),
    le32_slice _ (show 8 + 4 ≤ 16 by omega), le32_slice _ (show 12 + 4 ≤ 16 by omega)]

/-- The key words of the buffer's second half (R127). -/
theorem keyWords32_slice_high (b : List Byte) :
    keyWords32 (slice b 16 16) = { q0 := le32 b 16, q1 := le32 b 20, q2 := le32 b 24, q3 := le32 b 28 } := by
  simp [keyWords32, le32_slice _ (show 0 + 4 ≤ 16 by omega), le32_slice _ (show 4 + 4 ≤ 16 by omega),
    le32_slice _ (show 8 + 4 ≤ 16 by omega), le32_slice _ (show 12 + 4 ≤ 16 by omega)]

/-- The MAC is the secret encrypted under the words of k1 and k2 (R127, R128). -/
theorem mac_eq (secret : Word64) (buf : List Byte) :
    mac secret buf =
      (let k1 := speck64 secret { q0 := le32 buf 0, q1 := le32 buf 4, q2 := le32 buf 8, q3 := le32 buf 12 }
       let k2 := speck64 secret { q0 := le32 buf 16, q1 := le32 buf 20, q2 := le32 buf 24, q3 := le32 buf 28 }
       speck64 secret { q0 := lo64 k1, q1 := hi64 k1, q2 := lo64 k2, q3 := hi64 k2 }) := by
  unfold mac macKey
  rw [keyWords32_bytesLE64]
  unfold macK1 macK2
  rw [keyWords32_slice_low, keyWords32_slice_high]

end Sys2Proof.Machine
end

