-- ==== Sys2Proof/Laws/State.lean ====
section
/-! SUPPORT. One lemma per field per update of the state, the engine and a host agent. -/

namespace Sys2Proof.Machine

section
variable (s : State) (e : Engine) (f : Engine → Engine) (h : Nat) (a : HostAgent)

@[simp] theorem withEngine_engine : (s.withEngine e).engine = e := rfl
@[simp] theorem withEngine_hosts : (s.withEngine e).hosts = s.hosts := rfl
@[simp] theorem withEngine_turns : (s.withEngine e).turns = s.turns := rfl
@[simp] theorem mapEngine_engine : (s.mapEngine f).engine = f s.engine := rfl
@[simp] theorem mapEngine_hosts : (s.mapEngine f).hosts = s.hosts := rfl
@[simp] theorem mapEngine_turns : (s.mapEngine f).turns = s.turns := rfl
@[simp] theorem withHost_engine : (s.withHost h a).engine = s.engine := rfl
@[simp] theorem withHost_hosts : (s.withHost h a).hosts = s.hosts.set h a := rfl
@[simp] theorem withHost_turns : (s.withHost h a).turns = s.turns := rfl
@[simp] theorem popTurn_engine : s.popTurn.engine = s.engine := rfl
@[simp] theorem popTurn_hosts : s.popTurn.hosts = s.hosts := rfl
@[simp] theorem popTurn_turns : s.popTurn.turns = s.turns.tail := rfl

end

section
variable (e : Engine) (c : ErrCode) (i : Instr) (r : CommandResult)

@[simp] theorem reject_ie : (e.reject c).ie = e.ie := rfl
@[simp] theorem reject_inputs : (e.reject c).inputs = e.inputs := rfl
@[simp] theorem reject_res : (e.reject c).res = e.res := rfl
@[simp] theorem reject_info : (e.reject c).info = e.info := rfl
@[simp] theorem reject_inflight : (e.reject c).inflight = e.inflight := rfl
@[simp] theorem reject_busy : (e.reject c).status.busy = e.status.busy := rfl
@[simp] theorem reject_done : (e.reject c).status.done = e.status.done := rfl
@[simp] theorem reject_lastop : (e.reject c).status.lastop = e.status.lastop := rfl
@[simp] theorem reject_err : (e.reject c).status.err = true := rfl
@[simp] theorem reject_errcode :
    (e.reject c).status.errcode = if e.status.err then e.status.errcode else c.code := rfl

@[simp] theorem accept_ie : (e.accept i).ie = e.ie := rfl
@[simp] theorem accept_inputs : (e.accept i).inputs = e.inputs := rfl
@[simp] theorem accept_res : (e.accept i).res = e.res := rfl
@[simp] theorem accept_info : (e.accept i).info = e.info := rfl
@[simp] theorem accept_inflight : (e.accept i).inflight = some { op := i, snap := e.inputs } := rfl
@[simp] theorem accept_busy : (e.accept i).status.busy = true := rfl
@[simp] theorem accept_done : (e.accept i).status.done = false := rfl
@[simp] theorem accept_err : (e.accept i).status.err = e.status.err := rfl
@[simp] theorem accept_errcode : (e.accept i).status.errcode = e.status.errcode := rfl
@[simp] theorem accept_lastop : (e.accept i).status.lastop = opcode i := rfl

@[simp] theorem commit_ie : (e.commit r).ie = e.ie := rfl
@[simp] theorem commit_inputs : (e.commit r).inputs = e.inputs := rfl
@[simp] theorem commit_res : (e.commit r).res = r.res := rfl
@[simp] theorem commit_info : (e.commit r).info = r.info := rfl
@[simp] theorem commit_inflight : (e.commit r).inflight = none := rfl
@[simp] theorem commit_busy : (e.commit r).status.busy = false := rfl
@[simp] theorem commit_done : (e.commit r).status.done = true := rfl
@[simp] theorem commit_err : (e.commit r).status.err = e.status.err := rfl
@[simp] theorem commit_errcode : (e.commit r).status.errcode = e.status.errcode := rfl
@[simp] theorem commit_lastop : (e.commit r).status.lastop = e.status.lastop := rfl

end

section
variable (t : Status) (v : Word)

@[simp] theorem acknowledge_busy : (t.acknowledge v).busy = t.busy := rfl
@[simp] theorem acknowledge_lastop : (t.acknowledge v).lastop = t.lastop := rfl
@[simp] theorem acknowledge_done : (t.acknowledge v).done = if bitOf v 1 then false else t.done := rfl
@[simp] theorem acknowledge_err : (t.acknowledge v).err = if bitOf v 2 then false else t.err := rfl
@[simp] theorem acknowledge_errcode :
    (t.acknowledge v).errcode = if bitOf v 2 then 0 else t.errcode := rfl

end

section
variable (a : HostAgent) (x : Nat) (w : Word) (off pc : Nat)

@[simp] theorem advance_vars : a.advance.vars = a.vars := rfl
@[simp] theorem advance_prog : a.advance.prog = a.prog := rfl
@[simp] theorem advance_fault : a.advance.fault = a.fault := rfl
@[simp] theorem receive_vars : (a.receive x w).vars = setVar a.vars x w := rfl
@[simp] theorem receive_prog : (a.receive x w).prog = a.prog := rfl
@[simp] theorem receive_fault : (a.receive x w).fault = a.fault := rfl
@[simp] theorem stop_vars : (a.stop off).vars = a.vars := rfl
@[simp] theorem stop_prog : (a.stop off).prog = a.prog := rfl
@[simp] theorem stop_fault : (a.stop off).fault = some (.busError off) := rfl
@[simp] theorem goto_vars : (a.goto pc).vars = a.vars := rfl
@[simp] theorem goto_prog : (a.goto pc).prog = a.prog := rfl
@[simp] theorem goto_fault : (a.goto pc).fault = a.fault := rfl

end

end Sys2Proof.Machine
end

