-- ==== Sys2Proof/Laws/Ops.lean ====
section
/-! SUPPORT. What each shared operation can do, once: provers cite these instead of unfolding the operations. -/

namespace Sys2Proof.Machine

/-- Every command's CMD write does the same thing with its own opcode (R136). -/
theorem exec_eq_issue (i : Instr) (s : State) : exec i s = .next (s.mapEngine (Engine.issue i)) := by
  cases i <;> rfl

theorem issue_of_busy {i : Instr} {e : Engine} (h : e.status.busy = true) :
    e.issue i = e.reject .busy := by
  simp [Engine.issue, h]

theorem issue_of_idle {i : Instr} {e : Engine} (h : e.status.busy = false) : e.issue i = e.accept i := by
  simp [Engine.issue, h]

theorem complete_of_none {e : Engine} (h : e.inflight = none) : e.complete = e := by
  simp [Engine.complete, h]

theorem complete_of_some {e : Engine} {f : InFlight} (h : e.inflight = some f) :
    e.complete = e.commit (result f.op f.snap) := by
  simp [Engine.complete, h]

/-- `OnCmdWrite` on the engine alone (R136). -/
def Engine.request (v : Word) (e : Engine) : Engine :=
  if e.status.busy then e.reject .busy
  else match decode v with
    | .rsvBits => e.reject .rsvBits
    | .illegalOp => e.reject .illegalOp
    | .op i => e.accept i

theorem cmdWrite_eq (v : Word) (s : State) : cmdWrite v s = .next (s.mapEngine (Engine.request v)) := by
  unfold cmdWrite State.mapEngine Engine.request
  by_cases hb : s.engine.status.busy = true
  · simp [hb]
  · cases hd : decode v <;> simp [hb, State.mapEngine, exec_eq_issue, Engine.issue]

/-- What a legal bus write does to the engine (R58). -/
def Engine.busStore (off : Nat) (v : Word) (e : Engine) : Engine :=
  match regAt off with
  | none => e
  | some .cmd => e.request v
  | some r => e.write r v

theorem writeWindow_eq (off : Nat) (v : Word) (s : State) :
    writeWindow off v s = .next (s.mapEngine (Engine.busStore off v)) := by
  unfold writeWindow State.mapEngine Engine.busStore
  cases regAt off with
  | none => rfl
  | some r => cases r <;> simp [cmdWrite_eq, State.mapEngine]

/-- Every register is found at its own offset (R21, R39). -/
@[simp] theorem regAt_offset (r : Reg) : regAt r.offset = some r := by
  cases r with
  | seed i => fin_cases i <;> rfl
  | data i => fin_cases i <;> rfl
  | res i => fin_cases i <;> rfl
  | key i => fin_cases i <;> rfl
  | wcb i => fin_cases i <;> rfl
  | wcd i => fin_cases i <;> rfl
  | msg i => fin_cases i <;> rfl
  | _ => rfl

/-- Every register's offset is a legal 32-bit access (R50). -/
@[simp] theorem accessLegal_offset (r : Reg) : accessLegal r.offset 4 = true := by
  cases r <;> simp [accessLegal, Reg.offset]

@[simp] theorem windowOffset_base {off : Nat} (h : off < 0x100) :
    windowOffset (Config.base + off) = some off := by
  simp [windowOffset, Config.windowBytes, h]

/-- `windowOffset` answers `none` exactly outside the window (R50, R52). -/
theorem windowOffset_eq_none {addr : Nat} :
    windowOffset addr = none ↔ addr < Config.base ∨ Config.base + 0x100 ≤ addr := by
  unfold windowOffset Config.windowBytes
  split <;> simp only [reduceCtorEq, false_iff, true_iff] <;> omega

/-- A label is looked up in vain exactly when the program lacks it (R77). -/
theorem labelIndex_eq_none {p : List HostStmt} {l : Nat} : labelIndex p l = none ↔ HostStmt.label l ∉ p := by
  have hl : ∀ t : HostStmt, t.labelOf = some l ↔ t = .label l := fun t => by cases t <;> simp [HostStmt.labelOf]
  simp only [labelIndex, List.findIdx?_eq_none_iff, hl, decide_eq_false_iff_not]
  exact ⟨fun h hm => h _ hm rfl, fun h t ht e => h (e ▸ ht)⟩

section
variable (e : Engine) (r : Reg) (v : Word)

@[simp] theorem write_res : (e.write r v).res = e.res := by cases r <;> rfl
@[simp] theorem write_info : (e.write r v).info = e.info := by cases r <;> rfl
@[simp] theorem write_inflight : (e.write r v).inflight = e.inflight := by cases r <;> rfl
@[simp] theorem write_busy : (e.write r v).status.busy = e.status.busy := by cases r <;> rfl
@[simp] theorem write_lastop : (e.write r v).status.lastop = e.status.lastop := by cases r <;> rfl

end

/-- A write either acknowledges STATUS or leaves it (R24, R58). -/
theorem write_status (e : Engine) (r : Reg) (v : Word) :
    (e.write r v).status = if r = .status then e.status.acknowledge v else e.status := by
  cases r <;> simp [Engine.write]

/-- The three things a CMD write can do (R136). -/
theorem request_cases (v : Word) (e : Engine) :
    (∃ c, e.request v = e.reject c) ∨
    (∃ i, decode v = .op i ∧ e.status.busy = false ∧ e.request v = e.accept i) := by
  unfold Engine.request
  by_cases hb : e.status.busy = true
  · exact .inl ⟨.busy, by simp [hb]⟩
  · simp only [hb, Bool.false_eq_true, if_false]
    cases hd : decode v with
    | op i => exact .inr ⟨i, rfl, trivial, rfl⟩
    | rsvBits => exact .inl ⟨.rsvBits, rfl⟩
    | illegalOp => exact .inl ⟨.illegalOp, rfl⟩

/-- The four things a legal bus write can do to the engine (R58). -/
theorem busStore_cases (off : Nat) (v : Word) (e : Engine) :
    e.busStore off v = e ∨
    (∃ r, regAt off = some r ∧ r ≠ .cmd ∧ e.busStore off v = e.write r v) ∨
    (∃ c, regAt off = some .cmd ∧ e.busStore off v = e.reject c) ∨
    (∃ i, regAt off = some .cmd ∧ decode v = .op i ∧ e.status.busy = false ∧
      e.busStore off v = e.accept i) := by
  unfold Engine.busStore
  cases hr : regAt off with
  | none => exact .inl rfl
  | some r =>
    by_cases hc : r = .cmd
    · subst hc
      rcases request_cases v e with ⟨c, hq⟩ | ⟨i, hd, hb, hq⟩
      · exact .inr (.inr (.inl ⟨c, rfl, hq⟩))
      · exact .inr (.inr (.inr ⟨i, rfl, hd, hb, hq⟩))
    · exact .inr (.inl ⟨r, rfl, hc, by cases r <;> first | rfl | exact absurd rfl hc⟩)

end Sys2Proof.Machine
end

