-- ==== Sys2Proof/Laws/Padding.lean ====
section
/-! SUPPORT. The pieces that padding lays out have the block's length (41_hash.md R106). -/

namespace Sys2Proof.Machine

theorem length_slice {s : List Byte} {a n : Nat} (h : a + n ≤ s.length) : (slice s a n).length = n := by
  simp [slice]; omega

@[simp] theorem length_lengthField (L : Nat) : (lengthField L).length = 4 := rfl

/-- Writing the length field keeps the block's length. -/
theorem length_withLength {B L : Nat} {blk : List Byte} (hB : 4 ≤ B) (h : blk.length = B) :
    (withLength B L blk).length = B := by
  simp [withLength, h]; omega

/-- The partial block fills one block. -/
theorem length_terminated {B idx : Nat} {s : List Byte} (hi : idx ≤ B) (hs : idx ≤ s.length) :
    (terminated B s idx).length = B := by
  simp [terminated]; omega

/-- The partial block: the last `idx` bytes, the terminator, zeros (R106). -/
theorem terminated_eq {B idx : Nat} {s : List Byte} (hi : idx < B) (hs : idx ≤ s.length) :
    terminated B s idx = s.drop (s.length - idx) ++ 0x80 :: zeros (B - idx - 1) := by
  obtain ⟨k, hk⟩ : ∃ k, B - idx = k + 1 := ⟨B - idx - 1, by omega⟩
  have hl : (s.drop (s.length - idx)).length = idx := by simp; omega
  unfold terminated
  rw [List.set_append_right _ _ (by omega), hl, hk]
  simp [zeros, List.replicate_succ]

end Sys2Proof.Machine
end

