-- ==== Sys2Proof/Laws/PerInstr.lean ====
section
/-! SUPPORT. Statements about every command as syntax, one lemma per constructor (30_encoding.md R70, R72). -/

namespace Sys2Proof.Laws.Encoding

/-- The word of a command has zero reserved bits (R70) and its opcode in bits 3:0, one of 0x1..0x7 (R72), and
the command is well-formed. -/
def Statement (i : Instr) : Prop :=
  i.wf = true ∧ rsvField (encode i) = 0 ∧ opField (encode i) = opcode i ∧ instrOfOpcode (opcode i) = some i

theorem enc64 : Statement .enc64 := by unfold Statement; decide
theorem enc128 : Statement .enc128 := by unfold Statement; decide
theorem encck : Statement .encck := by unfold Statement; decide
theorem hashn : Statement .hashn := by unfold Statement; decide
theorem hashws : Statement .hashws := by unfold Statement; decide
theorem hashwc : Statement .hashwc := by unfold Statement; decide
theorem macn : Statement .macn := by unfold Statement; decide

end Sys2Proof.Laws.Encoding
end

