-- ==== Sys2Proof/Laws/Step.lean ====
section
/-! SUPPORT. What one step can do, once: the inversion lemmas of a host's turn and of `step`. -/

namespace Sys2Proof.Machine

/-- When a host's branch is refused: it is taken, and the label is not in that host's own program (R77). -/
theorem hostBranch_refused {h : Nat} {a : HostAgent} {taken : Bool} {l : Nat} {s : State} {r : Refusal}
    (hs : hostBranch h a taken l s = .refused r) :
    taken = true ∧ r = .undefinedLabel l ∧ HostStmt.label l ∉ a.prog := by
  unfold hostBranch at hs
  split at hs
  · rename_i ht
    cases hl : labelIndex a.prog l with
    | none =>
      simp only [hl] at hs
      injection hs with hs
      exact ⟨ht, hs.symm, labelIndex_eq_none.mp hl⟩
    | some k => simp [hl] at hs
  · cases hs

/-- What a host's statement can do when it answers a next state. -/
theorem hostStmt_cases {h : Nat} {a : HostAgent} {t : HostStmt} {s s' : State}
    (hf : a.fetch = some t) (hs : hostStmt h a t s = .next s') :
    s' = s ∨
    (∃ a', s' = s.withHost h a') ∨
    (∃ off v, a.pendingWrite = some (off, v) ∧
      s' = (s.withHost h a.advance).mapEngine (Engine.busStore off v)) := by
  cases t with
  | wr r v =>
    simp only [hostStmt, hostWrite, accessLegal_offset, if_true, writeWindow_eq] at hs
    injection hs with hs
    exact .inr (.inr ⟨r.offset, a.value v, by simp [HostAgent.pendingWrite, hf], hs.symm⟩)
  | rd r x =>
    simp only [hostStmt, hostRead, accessLegal_offset, if_true] at hs
    injection hs with hs
    exact .inr (.inl ⟨_, hs.symm⟩)
  | cmd i =>
    simp only [hostStmt, hostWrite, accessLegal_offset, if_true, writeWindow_eq] at hs
    injection hs with hs
    exact .inr (.inr ⟨Reg.offset .cmd, encode i, by simp [HostAgent.pendingWrite, hf], hs.symm⟩)
  | label l =>
    simp only [hostStmt] at hs
    injection hs with hs
    exact .inr (.inl ⟨_, hs.symm⟩)
  | bnz x m l =>
    simp only [hostStmt, hostBranch] at hs
    split at hs
    · cases hl : labelIndex a.prog l with
      | none => simp [hl] at hs
      | some k =>
        simp only [hl] at hs
        injection hs with hs
        exact .inr (.inl ⟨_, hs.symm⟩)
    · injection hs with hs
      exact .inr (.inl ⟨_, hs.symm⟩)
  | bz x m l =>
    simp only [hostStmt, hostBranch] at hs
    split at hs
    · cases hl : labelIndex a.prog l with
      | none => simp [hl] at hs
      | some k =>
        simp only [hl] at hs
        injection hs with hs
        exact .inr (.inl ⟨_, hs.symm⟩)
    · injection hs with hs
      exact .inr (.inl ⟨_, hs.symm⟩)
  | busRead addr size x =>
    cases hw : windowOffset addr with
    | none => simp [hostStmt, hw] at hs
    | some off =>
      simp only [hostStmt, hw, hostRead] at hs
      split at hs <;>
      · injection hs with hs
        exact .inr (.inl ⟨_, hs.symm⟩)
  | busWrite addr size v =>
    cases hw : windowOffset addr with
    | none => simp [hostStmt, hw] at hs
    | some off =>
      simp only [hostStmt, hw, hostWrite, writeWindow_eq] at hs
      split at hs
      · rename_i hl
        injection hs with hs
        exact .inr (.inr ⟨off, a.value v, by simp [HostAgent.pendingWrite, hf, hw, hl], hs.symm⟩)
      · injection hs with hs
        exact .inr (.inl ⟨_, hs.symm⟩)
  | waitIrq =>
    simp only [hostStmt] at hs
    split at hs
    · injection hs with hs
      exact .inr (.inl ⟨_, hs.symm⟩)
    · injection hs with hs
      exact .inl hs.symm

/-- What a host's turn can do to the engine: nothing, or the store of the legal write it was about to make. -/
theorem hostTurn_engine {h : Nat} {s s' : State} (hs : hostTurn h s = .next s') :
    s'.engine = s.engine ∨
    ∃ a off v, s.hosts[h]? = some a ∧ a.pendingWrite = some (off, v) ∧
      s'.engine = s.engine.busStore off v := by
  unfold hostTurn at hs
  cases ha : s.hosts[h]? with
  | none =>
    simp only [ha] at hs
    injection hs with hs
    exact .inl (hs ▸ rfl)
  | some a =>
    simp only [ha] at hs
    cases hf : a.fetch with
    | none =>
      simp only [hf] at hs
      injection hs with hs
      exact .inl (hs ▸ rfl)
    | some t =>
      simp only [hf] at hs
      rcases hostStmt_cases hf hs with rfl | ⟨a', rfl⟩ | ⟨off, v, hp, rfl⟩
      · exact .inl rfl
      · exact .inl rfl
      · exact .inr ⟨a, off, v, rfl, hp, rfl⟩

/-- A step is the turn it takes. -/
theorem step_eq_takeTurn (s : State) : step s = takeTurn s.nextTurn s.popTurn := rfl

/-- Everything a step can do to the engine (R16, R135): a completion, a reset, or a host's turn, which leaves
the engine alone or makes the pending bus write. -/
theorem step_engine_cases {s s' : State} (hs : step s = .next s') :
    (s.nextTurn = .engine ∧ s'.engine = s.engine.complete) ∨
    (s.nextTurn = .reset ∧ s'.engine = Engine.reset) ∨
    (∃ h, s.nextTurn = .host h ∧
      (s'.engine = s.engine ∨
       ∃ off v, s.pendingWrite = some (off, v) ∧ s'.engine = s.engine.busStore off v)) := by
  rw [step_eq_takeTurn] at hs
  cases ht : s.nextTurn with
  | engine =>
    simp only [ht, takeTurn] at hs
    injection hs with hs
    exact .inl ⟨rfl, hs ▸ rfl⟩
  | reset =>
    simp only [ht, takeTurn] at hs
    injection hs with hs
    exact .inr (.inl ⟨rfl, hs ▸ rfl⟩)
  | host h =>
    simp only [ht, takeTurn] at hs
    refine .inr (.inr ⟨h, rfl, ?_⟩)
    rcases hostTurn_engine hs with he | ⟨a, off, v, ha, hp, he⟩
    · exact .inl he
    · exact .inr ⟨off, v, by simpa [State.pendingWrite, ht, show s.hosts[h]? = some a from ha] using hp, he⟩

end Sys2Proof.Machine
end

