-- ==== Sys2Proof/Tests/Slice0.lean ====
section
/-! SUPPORT. The model's own tests, then one witness for the hypotheses of each obligation. Every expected value is
the one printed in spec/95_test_vectors.md under the number in the docstring, or is written out from the rule named
there. -/

namespace Sys2Proof.Tests

open Sys2Proof Sys2Proof.Machine

/-! ## Helpers -/

/-- The engine of a next state. -/
def engineOf (o : Host.Outcome State Fault Refusal) : Option Engine :=
  match o with
  | .next s => some s.engine
  | .fault _ => none
  | .refused _ => none

/-- The hosts of a next state. -/
def hostsOf (o : Host.Outcome State Fault Refusal) : Option (List HostAgent) :=
  match o with
  | .next s => some s.hosts
  | .fault _ => none
  | .refused _ => none

/-- Sixteen message words, the given ones first. -/
def msgWords (ws : List Word) : Vector Word 16 := Vector.ofFn fun i => ws.getD i.val 0

/-- Input registers with a message and a seed. -/
def hashInputs (ws : List Word) (seed0 seed1 : Word) : Inputs :=
  { Inputs.zero with msg := msgWords ws, seed := #v[seed0, seed1] }

/-- "CreateProcessA" in the message buffer (T1). -/
def createProcessA : List Word := [0x61657243, 0x72506574, 0x7365636F, 0x00004173]

/-- "CloseHandle" in the message buffer (T2). -/
def closeHandle : List Word := [0x736F6C43, 0x6E614865, 0x00656C64]

/-- The machine with an engine, one host about to run a program, and that host's turn next. -/
def machine (e : Engine) (p : List HostStmt) : State :=
  { engine := e, hosts := [HostAgent.load p], turns := [.host 0] }

/-- The engine after reset with ENC64 accepted. -/
def busyEngine : Engine := Engine.reset.accept .enc64

/-- An engine with STATUS as given and nothing in flight. -/
def idleEngine (ie done err : Bool) (errcode lastop : Nibble) : Engine :=
  { Engine.reset with
    ie := ie
    status := { busy := false, done := done, err := err, errcode := errcode, lastop := lastop } }

/-! ## WellFormed refuses ill-formed terms -/

theorem test_wf_duplicate_label : hostProgramWf [.label 1, .label 1] = false := by decide

theorem test_wf_branch_to_missing_label : hostProgramWf [.label 1, .bnz 0 1 2] = false := by decide

theorem test_wf_bz_to_missing_label : hostProgramWf [.bz 0 1 2] = false := by decide

theorem test_wf_ldstr_of_65_bytes : ldstrTextWf (List.replicate 65 0x41) = false := by decide

theorem test_wf_accepts_wait_loop : hostProgramWf (runCmd .hashn 1 0) = true := by decide

theorem test_wf_every_command : ∀ i : Instr, i.wf = true := by intro i; cases i <;> rfl

/-! ## Decoding: the words of R72 written out bit by bit, and the rejections of R75 -/

theorem test_decode_enc64 : decode 0b00000000000000000000000000000001#32 = .op .enc64 := by decide

theorem test_decode_enc128 : decode 0b00000000000000000000000000000010#32 = .op .enc128 := by decide

theorem test_decode_encck : decode 0b00000000000000000000000000000011#32 = .op .encck := by decide

theorem test_decode_hashn : decode 0b00000000000000000000000000000100#32 = .op .hashn := by decide

theorem test_decode_hashws : decode 0b00000000000000000000000000000101#32 = .op .hashws := by decide

theorem test_decode_hashwc : decode 0b00000000000000000000000000000110#32 = .op .hashwc := by decide

theorem test_decode_macn : decode 0b00000000000000000000000000000111#32 = .op .macn := by decide

/-- The nine illegal opcodes (R72). -/
theorem test_decode_illegal :
    [0x0#32, 0x8#32, 0x9#32, 0xA#32, 0xB#32, 0xC#32, 0xD#32, 0xE#32, 0xF#32].map decode =
      List.replicate 9 .illegalOp := by decide

/-- "bits 31:4 are checked before the opcode" (T62), and each reserved bit's ends. -/
theorem test_decode_reserved :
    [0x00000017#32, 0xFFFFFFF4#32, 0x00000010#32, 0x80000001#32, 0x80000000#32].map decode =
      List.replicate 5 .rsvBits := by decide

theorem test_decode_table_word :
    decodeTableWord 32 7 = some .macn ∧ decodeTableWord 32 0 = none ∧ decodeTableWord 32 0x17 = none := by decide

theorem test_encode_words :
    [Instr.enc64, .enc128, .encck, .hashn, .hashws, .hashwc, .macn].map encode =
      [0x00000001#32, 0x00000002#32, 0x00000003#32, 0x00000004#32, 0x00000005#32, 0x00000006#32, 0x00000007#32] := by
  decide

/-- The disassembly of P4 (R79). -/
theorem test_disassemble :
    disassemble 0x00000003 = "ENCCK" ∧ disassemble 0x0000000A = ".word 0x0000000A  ; illegal" ∧
    disassemble 0x00000014 = ".word 0x00000014  ; illegal" := by decide +kernel

/-! ## Known answers (spec/95_test_vectors.md), two for each command -/

/-- T9, the published Speck64/128 vector. -/
theorem test_enc64_t9 :
    resultEnc64 { Inputs.zero with
      data := #v[0x3B726574, 0x7475432D, 0, 0]
      key := #v[0x03020100, 0x0B0A0908, 0x13121110, 0x1B1A1918, 0, 0, 0, 0] } =
      { res := #v[0x8C6FA548, 0x454E028B, 0, 0], info := { len := 0, nblk := 1 } } := by decide +kernel

/-- T20: DATA2, DATA3 and KEY4..KEY7 are not read. -/
theorem test_enc64_t20 :
    resultEnc64 { Inputs.zero with
      data := #v[0, 0, 0x12345678, 0x9ABCDEF0]
      key := #v[0, 0, 0, 0, 1, 2, 3, 4] } =
      { res := #v[0x680448D5, 0x272F692C, 0, 0], info := { len := 0, nblk := 1 } } := by decide +kernel

/-- T12, the published Speck128/256 vector. -/
theorem test_enc128_t12 :
    resultEnc128 { Inputs.zero with
      data := #v[0x74206E49, 0x65736F68, 0x6E6F6F70, 0x202E7265]
      key := #v[0x03020100, 0x07060504, 0x0B0A0908, 0x0F0E0D0C, 0x13121110, 0x17161514, 0x1B1A1918, 0x1F1E1D1C] } =
      { res := #v[0x05C0F53E, 0x41090104, 0x9C188F43, 0x4EEEB48D], info := { len := 0, nblk := 1 } } := by
  decide +kernel

/-- T14. -/
theorem test_enc128_t14 :
    resultEnc128 { Inputs.zero with
      data := Vector.replicate 4 0xFFFFFFFF
      key := Vector.replicate 8 0xFFFFFFFF } =
      { res := #v[0xDD80094F, 0x2ECE8A88, 0x840FB731, 0x74264544], info := { len := 0, nblk := 1 } } := by
  decide +kernel

/-- T23. -/
theorem test_encck_t23 :
    resultEncck { Inputs.zero with
      data := #v[0x03020100, 0x07060504, 0x0B0A0908, 0x0F0E0D0C]
      key := #v[0x33221100, 0x77665544, 0xBBAA9988, 0xFFEEDDCC, 0, 0, 0, 0] } =
      { res := #v[0xA30A64BE, 0xA8A80FEE, 0x2B4B2966, 0xC6342152], info := { len := 0, nblk := 1 } } := by
  decide +kernel

/-- T26, one Chaskey round. -/
theorem test_encck_t26 :
    chaskeyRound { q0 := 1, q1 := 0, q2 := 0, q3 := 0 } =
      { q0 := 0x00010000, q1 := 0x00000081, q2 := 0x00010000, q3 := 0x00010000 } := by decide

/-- T1, a known answer of the source: the flush case. -/
theorem test_hashn_t1 :
    resultHashn (hashInputs createProcessA 0xB467369E 0) =
      { res := #v[0x2BA8BB90, 0xDFA1DE9F, 0, 0], info := { len := 14, nblk := 2 } } := by decide +kernel

/-- T37: 64 bytes without a zero byte, five blocks. -/
theorem test_hashn_t37 :
    resultHashn (hashInputs
      [0x44434241, 0x48474645, 0x4C4B4A49, 0x504F4E4D, 0x54535251, 0x58575655, 0x62615A59, 0x66656463,
       0x6A696867, 0x6E6D6C6B, 0x7271706F, 0x76757473, 0x7A797877, 0x33323130, 0x37363534, 0x42413938]
      0xB467369E 0) =
      { res := #v[0x23B43138, 0x69CFE98D, 0, 0], info := { len := 64, nblk := 5 } } := by decide +kernel

/-- T82, under the constants it names. -/
theorem test_hashws_t82 :
    hashWS 0x0123456789ABCDEF 0xFEDCBA9876543210 (hashInputs createProcessA 0xE5E7970F 0x15DF1E4B) =
      { res := #v[0x8FEBB6E0, 0x3C9C1BDE, 0x7D52FFF6, 0x8A92B651], info := { len := 14, nblk := 1 } } := by
  decide +kernel

/-- T46: 28 bytes flush with 32-byte blocks. -/
theorem test_hashws_t46 :
    hashWS 0 0 (hashInputs (List.replicate 7 0x41414141) 0 0) =
      { res := #v[0x68926275, 0xCD07EFF4, 0x9FA10CB6, 0x059CB29B], info := { len := 28, nblk := 2 } } := by
  decide +kernel

/-- T83, under the constants it names. -/
theorem test_hashwc_t83 :
    hashWC 0x0123456789ABCDEF 0xFEDCBA9876543210 (hashInputs createProcessA 0xE5E7970F 0x15DF1E4B) =
      { res := #v[0x5EC8BB17, 0x53B8F681, 0xB06AA179, 0x560C29DC], info := { len := 14, nblk := 2 } } := by
  decide +kernel

/-- T49: two full blocks and a third. -/
theorem test_hashwc_t49 :
    hashWC 0 0 (hashInputs (List.replicate 8 0x41414141) 0 0) =
      { res := #v[0x3CE1F414, 0x34B43012, 0xCC3EE76E, 0xB22FED20], info := { len := 32, nblk := 3 } } := by
  decide +kernel

/-- T4, a known answer of the source. -/
theorem test_macn_t4 :
    resultMacn (hashInputs createProcessA 0x5F697061 0x5F697061) =
      { res := #v[0x363A32A0, 0x3D1E2F30, 0, 0], info := { len := 14, nblk := 3 } } := by decide +kernel

/-- T54: byte 15 of the message is never read. -/
theorem test_macn_t54 :
    resultMacn (hashInputs [0x44434241, 0x48474645, 0x4C4B4A49, 0x504F4E4D] 0x5F697061 0x5F697061) =
      { res := #v[0x109313F5, 0x548A00B8, 0, 0], info := { len := 15, nblk := 3 } } := by decide +kernel

/-! ## Single steps -/

/-- T61, its first write: STATUS = 0x00000014. -/
theorem test_step_illegal_command :
    (engineOf (step (machine Engine.reset [.wr .cmd (.imm 0)]))).map (readWindow · 0x008) = some 0x00000014 := by
  decide

/-- T63, its second write: STATUS = 0x00000135, and ENC64 stays in flight. -/
theorem test_step_command_while_busy :
    (engineOf (step (machine busyEngine [.cmd .hashn]))).map (fun e => (readWindow e 0x008, e.inflight)) =
      some (0x00000135, some { op := .enc64, snap := Inputs.zero }) := by decide

/-- T63, its completion: STATUS = 0x00000136 and the ENC64 result of T10. -/
theorem test_step_completion :
    (engineOf (step { machine { busyEngine with
        status := { busyEngine.status with err := true, errcode := 3 } } [] with turns := [.engine] })).map
      (fun e => (readWindow e 0x008, e.res, readWindow e 0x018, e.inflight)) =
      some (0x00000136, #v[0x680448D5, 0x272F692C, 0, 0], 0x00000100, none) := by decide +kernel

/-- T65: bits 1 and 2 of the value clear; then 0x6 leaves LASTOP only. -/
theorem test_step_acknowledge :
    (engineOf (step (machine (idleEngine false true false 0 1) [.wr .status (.imm 0xFFFFFFF9)]))).map
      (readWindow · 0x008) = some 0x00000102 ∧
    (engineOf (step (machine (idleEngine false true false 0 1) clrst))).map (readWindow · 0x008) =
      some 0x00000100 := by decide

/-- T67: a 2-byte write at 0x010 is BusError, SEED0 and STATUS stay. -/
theorem test_step_malformed_write :
    hostsOf (step (machine Engine.reset [.busWrite (Config.base + 0x010) 2 (.imm 1)])) =
      some [{ prog := [.busWrite (Config.base + 0x010) 2 (.imm 1)], pc := 0, vars := [],
              fault := some (.busError 0x010) }] ∧
    engineOf (step (machine Engine.reset [.busWrite (Config.base + 0x010) 2 (.imm 1)])) = some Engine.reset := by
  simp [machine, step, agentStep, State.nextTurn, State.popTurn, takeTurn, hostTurn, HostAgent.load,
    HostAgent.fetch, hostStmt, hostWrite, accessLegal, State.withHost, HostAgent.stop, hostsOf, engineOf]

/-- T69, its DONE step: irq is 1 with IE = 1 after the completion. -/
theorem test_step_irq :
    (engineOf (step { machine { busyEngine with ie := true } [] with turns := [.engine] })).map Engine.irq =
      some true := by decide +kernel

/-- T70: reset discards the command in flight. -/
theorem test_step_reset :
    engineOf (step { machine busyEngine [] with turns := [.reset] }) = some Engine.reset := by decide

/-- T72: CTRL reads 1 after a write of 0xFFFFFFFF. -/
theorem test_step_ctrl :
    (engineOf (step (machine Engine.reset [.wr .ctrl (.imm 0xFFFFFFFF)]))).map (readWindow · 0x004) =
      some 0x00000001 := by decide

/-- T75: DONE stays set when a request is rejected. -/
theorem test_step_stale_done :
    (engineOf (step (machine (idleEngine false true false 0 1) [.wr .cmd (.imm 0x10)]))).map (readWindow · 0x008) =
      some 0x00000126 := by decide

/-- P4: `RD STATUS -> s` gives 0x00000014, in variable 5. -/
theorem test_step_read :
    hostsOf (step (machine (idleEngine false false true 1 0) [.rd .status 5])) =
      some [{ prog := [.rd .status 5], pc := 1, vars := [(5, 0x00000014)], fault := none }] := by decide

/-- P4: `BZ s, 0x4, ok` does not branch when ERR = 1 in s. -/
theorem test_step_branch_not_taken :
    hostsOf (step { machine Engine.reset [] with
      hosts := [{ prog := [.bz 5 0x4 9, .label 9], pc := 0, vars := [(5, 0x00000014)], fault := none }] }) =
      some [{ prog := [.bz 5 0x4 9, .label 9], pc := 1, vars := [(5, 0x00000014)], fault := none }] := by decide

/-- R78: the wait loop goes back to its label while BUSY. -/
theorem test_step_branch_taken :
    hostsOf (step { machine Engine.reset [] with
      hosts := [{ prog := waitIdle 9 5, pc := 2, vars := [(5, 0x00000101)], fault := none }] }) =
      some [{ prog := waitIdle 9 5, pc := 0, vars := [(5, 0x00000101)], fault := none }] := by decide

/-- T8: the words `LDSTR "CreateProcessA"` writes. -/
theorem test_ldstr :
    (ldstr [0x43, 0x72, 0x65, 0x61, 0x74, 0x65, 0x50, 0x72, 0x6F, 0x63, 0x65, 0x73, 0x73, 0x41]).take 5 =
      [.wr (.msg 0) (.imm 0x61657243), .wr (.msg 1) (.imm 0x72506574), .wr (.msg 2) (.imm 0x7365636F),
       .wr (.msg 3) (.imm 0x00004173), .wr (.msg 4) (.imm 0)] := by decide +kernel

/-- T66: the seed of "api_api_" little-endian (P2). -/
theorem test_ldseed :
    ldseed 0x5F6970615F697061 = [.wr (.seed 0) (.imm 0x5F697061), .wr (.seed 1) (.imm 0x5F697061)] := by decide

/-- Right after reset a table word placed by withFetchWord is what the next step runs. -/
theorem test_fetch_word :
    engineOf (step (State.reset.withFetchWord 32 0x00000004)) = some (Engine.reset.accept .hashn) := by decide

/-! ## Witnesses: concrete states and operands that meet the hypotheses of each obligation -/

/-- A legal command word for each opcode boundary: 0x1 and 0x7. -/
theorem witness_DecodeAgreesWithEncode :
    decode 0x00000001 = .op .enc64 ∧ decode 0x00000007 = .op .macn ∧ decodeTableWord 32 0x7 = some .macn := by
  decide

theorem witness_RegisterMapOffsets :
    0x0BC % 4 = 0 ∧ regAt 0x0BC = some (.msg 15) ∧ regAt 0x01C = none ∧ regAt 0x070 = none ∧
    regAt 0x07C = none ∧ regAt 0x0C0 = none ∧ regAt 0x0FC = none ∧ regAt 0x06C = some (.wcd 1) := by decide

theorem witness_InputRegisterWriteStores :
    (∃ i, Reg.seed 1 = .seed i) ∧ (∃ i, Reg.data 3 = .data i) ∧ (∃ i, Reg.key 7 = .key i) ∧
    (∃ i, Reg.msg 15 = .msg i) := by decide

/-- Both ends of each range of read-only and reserved offsets are 4-byte aligned and in range. -/
theorem witness_ReservedAndReadOnlyIgnoreWrites :
    ([0x000, 0x018, 0x01C, 0x030, 0x03C, 0x060, 0x06C, 0x070, 0x07C, 0x0C0, 0x0FC].all fun off =>
      off % 4 = 0 ∧ (off = 0x000 ∨ off = 0x018 ∨ off = 0x01C ∨ (0x030 ≤ off ∧ off ≤ 0x03C) ∨
        (0x060 ≤ off ∧ off ≤ 0x07C) ∨ (0x0C0 ≤ off ∧ off ≤ 0x0FC))) = true := by decide

/-- A bus read at the window's last word. -/
theorem witness_ReadHasNoSideEffect_bus :
    let a := HostAgent.load [.busRead (Config.base + 0x0FC) 4 0]
    let s := machine Engine.reset a.prog
    s.nextTurn = .host 0 ∧ s.hosts[0]? = some a ∧ 0x0FC % 4 = 0 ∧ 0x0FC < 0x100 ∧
    a.fetch = some (.busRead (Config.base + 0x0FC) 4 0) := ⟨rfl, rfl, rfl, by decide, rfl⟩

/-- A register read. -/
theorem witness_ReadHasNoSideEffect_register :
    let a := HostAgent.load [.rd .status 0]
    let s := machine busyEngine a.prog
    s.nextTurn = .host 0 ∧ s.hosts[0]? = some a ∧ 0x008 % 4 = 0 ∧
    0x008 = Reg.offset .status ∧ a.fetch = some (.rd .status 0) := ⟨rfl, rfl, rfl, rfl, rfl⟩

/-- A read of the wrong width at an aligned offset. -/
theorem witness_MalformedAccessFaultsItsHost_width :
    let a := HostAgent.load [.busRead (Config.base + 0x080) 1 0]
    let s := machine Engine.reset a.prog
    s.nextTurn = .host 0 ∧ s.hosts[0]? = some a ∧ 0x080 < 0x100 ∧ 1 ≠ 4 ∧
    a.fetch = some (.busRead (Config.base + 0x080) 1 0) := ⟨rfl, rfl, by decide, by decide, rfl⟩

/-- A misaligned write of the right width, at the window's last byte. -/
theorem witness_MalformedAccessFaultsItsHost_alignment :
    let a := HostAgent.load [.busWrite (Config.base + 0x0FF) 4 (.imm 1)]
    let s := machine Engine.reset a.prog
    s.nextTurn = .host 0 ∧ s.hosts[0]? = some a ∧ 0x0FF < 0x100 ∧ 0x0FF % 4 ≠ 0 ∧
    a.fetch = some (.busWrite (Config.base + 0x0FF) 4 (.imm 1)) := ⟨rfl, rfl, by decide, by decide, rfl⟩

/-- A host that has faulted. -/
theorem witness_MalformedAccessFaultsItsHost_faulted :
    let a := { HostAgent.load [.cmd .hashn] with fault := some (.busError 0x012) }
    let s : State := { engine := Engine.reset, hosts := [a], turns := [.host 0] }
    s.nextTurn = .host 0 ∧ s.hosts[0]? = some a ∧ a.fault ≠ none := by decide

/-- The three rejections of R141, each at a boundary word. -/
theorem witness_CmdWriteRejections :
    busyEngine.status.busy = true ∧
    Engine.reset.status.busy = false ∧ (0x00000010#32).extractLsb' 4 28 ≠ 0 ∧
    (0x00000008#32).extractLsb' 4 28 = 0 ∧ 8 ≤ ((0x00000008#32).extractLsb' 0 4).toNat ∧
    (0x00000000#32).extractLsb' 4 28 = 0 ∧ ((0x00000000#32).extractLsb' 0 4).toNat = 0 := by decide

theorem witness_CmdWriteAcceptance :
    Engine.reset.status.busy = false ∧ (0x00000007#32).extractLsb' 4 28 = 0 ∧
    (0x00000007#32).extractLsb' 0 4 = opcode .macn := by decide

/-- A command in flight with the engine's turn next, and one with no turn fixed. -/
theorem witness_CompletionCommitsInOneStep :
    (∃ s : State, s.engine.inflight = some { op := .enc64, snap := Inputs.zero } ∧
      s.turns.head? = some .engine) ∧
    (∃ s : State, s.engine.inflight = some { op := .enc64, snap := Inputs.zero } ∧ s.turns = []) :=
  ⟨⟨{ machine busyEngine [] with turns := [.engine] }, rfl, rfl⟩, ⟨{ machine busyEngine [] with turns := [] }, rfl, rfl⟩⟩

/-- The hypothesis of the seven statements that run a command to its result. -/
theorem witness_RunsToItsResult : State.reset.engine.status.busy = false := rfl

/-- A command that is accepted, and one that is rejected. -/
theorem witness_CommandFrame :
    exec .macn State.reset = .next (State.reset.withEngine (Engine.reset.accept .macn)) ∧
    exec .macn (State.reset.withEngine busyEngine) =
      .next (State.reset.withEngine (busyEngine.reject .busy)) := ⟨rfl, rfl⟩

theorem witness_CommandWhileBusyIsRejected : (State.reset.withEngine busyEngine).engine.status.busy = true := rfl

/-- `WR CMD` of a legal word. -/
theorem witness_StepRunsDecodedCommand_wr :
    let a := HostAgent.load [.wr .cmd (.imm 0x4)]
    let s := machine Engine.reset a.prog
    s.nextTurn = .host 0 ∧ s.hosts[0]? = some a ∧ a.fetch = some (.wr .cmd (.imm 0x4)) ∧
    decode (a.value (.imm 0x4)) = .op .hashn := by decide

/-- A bus write at the address of CMD, of a host variable. -/
theorem witness_StepRunsDecodedCommand_bus :
    let a := { HostAgent.load [.busWrite (Config.base + 0x00C) 4 (.var 3)] with vars := [(3, 0x7)] }
    let s : State := { engine := Engine.reset, hosts := [a], turns := [.host 0] }
    s.nextTurn = .host 0 ∧ s.hosts[0]? = some a ∧
    a.fetch = some (.busWrite (Config.base + 0x00C) 4 (.var 3)) ∧ decode (a.value (.var 3)) = .op .macn :=
  ⟨rfl, rfl, rfl, by decide⟩

/-- A mnemonic. -/
theorem witness_StepRunsDecodedCommand_mnemonic :
    let a := HostAgent.load [.cmd .encck]
    let s := machine Engine.reset a.prog
    s.nextTurn = .host 0 ∧ s.hosts[0]? = some a ∧ a.fetch = some (.cmd .encck) := by decide

theorem witness_FetchWordIsRunNext :
    decodeTableWord 32 0x1 = some .enc64 ∧ decodeTableWord 8 0x7 = some .macn := by decide

theorem witness_HostWriteReachesTheWindow :
    let a := HostAgent.load [.wr (.msg 15) (.imm 0x41)]
    let s := machine Engine.reset a.prog
    s.nextTurn = .host 0 ∧ s.hosts[0]? = some a ∧ a.pendingWrite = some (0x0BC, 0x41) := by decide

theorem witness_HostBranches_bnz :
    let a := { HostAgent.load (waitIdle 9 5) with pc := 2 }
    let s : State := { engine := busyEngine, hosts := [a], turns := [.host 0] }
    s.nextTurn = .host 0 ∧ s.hosts[0]? = some a ∧ labelIndex a.prog 9 = some 0 ∧
    a.fetch = some (.bnz 5 0x1 9) := by decide

theorem witness_HostBranches_bz :
    let a := HostAgent.load [.bz 5 0x4 9, .label 9]
    let s := machine Engine.reset a.prog
    s.nextTurn = .host 0 ∧ s.hosts[0]? = some a ∧ labelIndex a.prog 9 = some 1 ∧
    a.fetch = some (.bz 5 0x4 9) := by decide

theorem witness_HostStepLeavesOtherHosts :
    let a := HostAgent.load [.cmd .encck]
    let s : State := { engine := Engine.reset, hosts := [a, a], turns := [.host 1] }
    s.nextTurn = .host 1 ∧ 0 ≠ 1 ∧
    step s = .next { engine := Engine.reset.accept .encck, hosts := [a, a.advance], turns := [] } :=
  ⟨rfl, by decide, rfl⟩

/-- A read just past the window's end is refused. -/
theorem witness_StepStopsOnlyOutsideTheSpec_address :
    let a := HostAgent.load [.busRead (Config.base + 0x100) 4 0]
    let s := machine Engine.reset a.prog
    s.nextTurn = .host 0 ∧ s.hosts[0]? = some a ∧ Config.base + 0x100 ≤ Config.base + 0x100 ∧
    a.fetch = some (.busRead (Config.base + 0x100) 4 0) := ⟨rfl, rfl, le_refl _, rfl⟩

/-- The same for a write. Below the window no address can be named, since BASE may be 0. -/
theorem witness_StepStopsOnlyOutsideTheSpec_write :
    let a := HostAgent.load [.busWrite (Config.base + 0x100) 1 (.imm 0)]
    let s := machine Engine.reset a.prog
    s.nextTurn = .host 0 ∧ s.hosts[0]? = some a ∧ Config.base + 0x100 ≤ Config.base + 0x100 ∧
    a.fetch = some (.busWrite (Config.base + 0x100) 1 (.imm 0)) := ⟨rfl, rfl, le_refl _, rfl⟩

/-- A taken BZ to a label that is not there is refused. -/
theorem witness_StepStopsOnlyOutsideTheSpec_bz :
    let a := HostAgent.load [.bz 0 0x1 9]
    let s := machine Engine.reset a.prog
    s.nextTurn = .host 0 ∧ s.hosts[0]? = some a ∧ HostStmt.label 9 ∉ a.prog ∧ a.fetch = some (.bz 0 0x1 9) ∧
    varOf a.vars 0 &&& 0x1 = 0 ∧ step s = .refused (.undefinedLabel 9) :=
  ⟨rfl, rfl, by decide, rfl, rfl, rfl⟩

/-- A taken BNZ to a label that another host's program has, and its own lacks. -/
theorem witness_StepStopsOnlyOutsideTheSpec_bnz :
    let a := { HostAgent.load [.bnz 0 0x1 9] with vars := [(0, 0x1)] }
    let s : State := { engine := Engine.reset, hosts := [HostAgent.load [.label 9], a], turns := [.host 1] }
    s.nextTurn = .host 1 ∧ s.hosts[1]? = some a ∧ HostStmt.label 9 ∉ a.prog ∧ a.fetch = some (.bnz 0 0x1 9) ∧
    varOf a.vars 0 &&& 0x1 ≠ 0 ∧ step s = .refused (.undefinedLabel 9) :=
  ⟨rfl, rfl, by decide, rfl, by decide, rfl⟩

theorem witness_WellFormedProgramsFindTheirLabels :
    hostProgramWf (runCmd .hashn 1 0) = true ∧ HostStmt.bnz 0 0x1 1 ∈ runCmd .hashn 1 0 ∧
    (HostStmt.bnz 0 0x1 1).targetOf = some 1 := by decide

/-- The longest text, and the empty one. -/
theorem witness_LdstrLoadsTheMessage :
    ldstrTextWf (List.replicate 64 0x41) = true ∧ ldstrTextWf [] = true := by decide

theorem witness_ResetDiscardsTheCommand :
    ({ machine busyEngine [] with turns := [.reset] } : State).nextTurn = .reset ∧
    busyEngine.inflight ≠ none := by decide

/-- A value and a state for each clause of the interrupt statement. -/
theorem witness_IrqLevel :
    (0x00000006#32).getLsbD 1 = true ∧ (0x00000006#32).getLsbD 2 = true ∧ (0x00000000#32).getLsbD 0 = false ∧
    (0x00000001#32).getLsbD 0 = true ∧
    (idleEngine true true false 0 1).irq = true ∧ (idleEngine true false true 2 0).irq = true ∧
    (idleEngine true false true 2 0).status.err = true ∧ (idleEngine true true false 0 1).status.done = true ∧
    (idleEngine true true false 0 1).status.busy = false ∧
    (idleEngine true true false 0 1).status.err = false := by decide

/-- The engine with a command in flight meets the invariant. -/
theorem busyEngine_inv : busyEngine.Inv where
  busy_inflight := rfl
  busy_not_done := fun _ => rfl
  lastop_inflight := fun f h => by cases h; rfl
  errcode_clear := fun _ => rfl
  errcode_named := fun h => absurd h (by decide)
  lastop_le := by decide
  len_le := by decide
  nblk_le := by decide

/-- The engine after reset meets the invariant. -/
theorem resetEngine_inv : Engine.reset.Inv where
  busy_inflight := rfl
  busy_not_done := fun h => absurd h (by decide)
  lastop_inflight := fun f h => by cases h
  errcode_clear := fun _ => rfl
  errcode_named := fun h => absurd h (by decide)
  lastop_le := by decide
  len_le := by decide
  nblk_le := by decide

/-- A machine built by `machine` meets the invariant when its engine does. -/
theorem machine_inv {e : Engine} (h : e.Inv) (p : List HostStmt) (ts : List Turn) :
    ({ machine e p with turns := ts } : State).Inv where
  engine := h
  hosts := by
    intro a ha
    rw [List.mem_singleton.mp ha]
    exact ⟨List.Pairwise.nil, fun q hq => absurd hq List.not_mem_nil⟩

theorem witness_StepKeepsTheInvariant :
    (machine Engine.reset [.cmd .hashn]).Inv ∧
    step (machine Engine.reset [.cmd .hashn]) =
      .next { engine := Engine.reset.accept .hashn, hosts := [(HostAgent.load [.cmd .hashn]).advance], turns := [] } :=
  ⟨machine_inv resetEngine_inv _ _, rfl⟩

/-- A completion changes RES; T10. -/
theorem witness_ResultsChangeOnlyAtCompletion_completion :
    let s : State := { machine busyEngine [] with turns := [.engine] }
    ∃ t, step s = .next t ∧ t.engine.res ≠ s.engine.res :=
  ⟨_, rfl, by decide +kernel⟩

/-- A reset changes RES. -/
theorem witness_ResultsChangeOnlyAtCompletion_reset :
    let s : State := { machine { Engine.reset with res := #v[1, 0, 0, 0] } [] with turns := [.reset] }
    ∃ t, step s = .next t ∧ t.engine.res ≠ s.engine.res := ⟨_, rfl, by decide⟩

theorem witness_InputsChangeOnlyByHostWrites :
    let s := machine Engine.reset [.wr (.key 7) (.imm 0xFFFFFFFF)]
    (∃ i, Reg.key 7 = .key i) ∧ ∃ t, step s = .next t ∧
      readWindow t.engine (Reg.offset (.key 7)) ≠ readWindow s.engine (Reg.offset (.key 7)) :=
  ⟨⟨7, rfl⟩, _, rfl, by decide⟩

theorem witness_BusyWriters_set :
    let s := machine Engine.reset [.cmd .enc128]
    ∃ t, step s = .next t ∧ s.engine.status.busy = false ∧ t.engine.status.busy = true := ⟨_, rfl, rfl, rfl⟩

/-- Also the witness of DoneWriters' first clause: DONE is 0 before, 1 after. -/
theorem witness_BusyWriters_clear :
    let s : State := { machine busyEngine [] with turns := [.engine] }
    ∃ t, step s = .next t ∧ s.engine.status.busy = true ∧ t.engine.status.busy = false ∧
      s.engine.status.done = false ∧ t.engine.status.done = true := ⟨_, rfl, rfl, rfl, rfl, rfl⟩

theorem witness_DoneWriters_clear :
    let s := machine (idleEngine false true false 0 1) clrst
    ∃ t, step s = .next t ∧ s.engine.status.done = true ∧ t.engine.status.done = false := ⟨_, rfl, rfl, rfl⟩

/-- An acceptance clears DONE, and sets LASTOP. -/
theorem witness_DoneWriters_acceptance :
    let s := machine (idleEngine false true false 0 1) [.cmd .macn]
    s.pendingWrite = some (0x00C, encode .macn) ∧ s.engine.status.busy = false ∧
    ∃ t, step s = .next t ∧ s.engine.status.done = true ∧ t.engine.status.done = false := ⟨rfl, rfl, _, rfl, rfl, rfl⟩

/-- A reset clears DONE and ERR, and changes LASTOP. -/
theorem witness_writers_reset :
    let s : State := { machine (idleEngine false true true 3 1) [] with turns := [.reset] }
    s.nextTurn = .reset ∧ ∃ t, step s = .next t ∧ s.engine.status.done = true ∧ s.engine.status.err = true ∧
      t.engine.status.lastop ≠ s.engine.status.lastop := ⟨rfl, _, rfl, rfl, rfl, by decide⟩

theorem witness_ErrWriters_set :
    let s := machine Engine.reset [.wr .cmd (.imm 0x8)]
    ∃ t, step s = .next t ∧ s.engine.status.err = false ∧ t.engine.status.err = true := ⟨_, rfl, rfl, rfl⟩

theorem witness_ErrWriters_clear :
    let s := machine (idleEngine false false true 3 1) clrst
    ∃ t, step s = .next t ∧ s.engine.status.err = true ∧ t.engine.status.err = false := ⟨_, rfl, rfl, rfl⟩

/-- A second rejection, with another code. -/
theorem witness_ErrWriters_kept :
    let s := machine (idleEngine false false true 1 0) [.wr .cmd (.imm 0x20)]
    ∃ t, step s = .next t ∧ s.engine.status.err = true ∧ t.engine.status.err = true := ⟨_, rfl, rfl, rfl⟩

theorem witness_LastopWriters :
    let s := machine Engine.reset [.cmd .macn]
    ∃ t, step s = .next t ∧ t.engine.status.lastop ≠ s.engine.status.lastop := ⟨_, rfl, by decide⟩

/-- A host write while a command is in flight. -/
theorem witness_InFlightCommandIsUndisturbed :
    let s := machine busyEngine [.wr (.key 0) (.imm 1)]
    s.Inv ∧ (∃ t, step s = .next t) ∧ s.engine.inflight = some { op := .enc64, snap := Inputs.zero } :=
  ⟨machine_inv busyEngine_inv _ _, ⟨_, rfl⟩, rfl⟩

/-- The host turn that was fixed comes before the completion. -/
theorem witness_AcceptedCommandCompletes :
    let s := machine busyEngine [.rd .status 0]
    s.Inv ∧ s.engine.inflight = some { op := .enc64, snap := Inputs.zero } ∧ Turn.reset ∉ s.turns :=
  ⟨machine_inv busyEngine_inv _ _, rfl, by decide⟩

/-- Snapshots that differ, but not in the operands that ENC64, ENCCK, the hashes and MACN list. -/
theorem witness_ResultsDependOnListedOperands :
    let S : Inputs := { Inputs.zero with key := #v[0, 0, 0, 0, 1, 2, 3, 4] }
    let T := Inputs.zero
    S ≠ T ∧ S.data = T.data ∧ S.msg = T.msg ∧ S.seed = T.seed ∧ S.key[0] = T.key[0] ∧ S.key[1] = T.key[1] ∧
    S.key[2] = T.key[2] ∧ S.key[3] = T.key[3] := by decide

/-- Snapshots that differ in byte 15 of the message only, which MACN does not read (T53, T54). -/
theorem witness_ResultsDependOnListedOperands_macn :
    let S := hashInputs [0x44434241, 0x48474645, 0x4C4B4A49, 0x504F4E4D] 0x5F697061 0x5F697061
    let T := hashInputs [0x44434241, 0x48474645, 0x4C4B4A49, 0x004F4E4D] 0x5F697061 0x5F697061
    S ≠ T ∧ S.seed = T.seed ∧ ∀ i, i < 15 → msgByte S i = msgByte T i := by decide +kernel

/-- Snapshots that differ in ENC128's unlisted operands only. -/
theorem witness_ResultsDependOnListedOperands_enc128 :
    let S := hashInputs [0x41] 1 2
    S ≠ Inputs.zero ∧ S.data = Inputs.zero.data ∧ S.key = Inputs.zero.key := by decide +kernel

/-- The two block sizes. -/
theorem witness_PadBlocks : (16 = 16 ∨ 16 = 32) ∧ (32 = 16 ∨ 32 = 32) := by decide

/-- "Close\0Handle" and "Close" (T36): the second has a zero byte at L = 5. -/
theorem witness_HashTruncationEquivalence :
    let S := hashInputs [0x736F6C43, 0x61480065, 0x656C646E] 0xB467369E 0
    let T := hashInputs [0x736F6C43, 0x00000065] 0xB467369E 0
    S ≠ T ∧ S.seed = T.seed ∧ effLen S 64 = 5 ∧ (∀ i, i < effLen S 64 → msgByte T i = msgByte S i) ∧
    msgByte T (effLen S 64) = 0 := by decide +kernel

/-- A message without a zero byte: L is 64. -/
theorem witness_HashTruncationEquivalence_full :
    effLen (hashInputs (List.replicate 16 0x41414141) 0 0) 64 = 64 := by decide +kernel

/-- "ABCDEFGHIJKLMNOP" and "ABCDEFGHIJKLMNO" (T54, T53): L is the capacity; and "api\0x" and "api" (T55). -/
theorem witness_MacTruncation :
    (let S := hashInputs [0x44434241, 0x48474645, 0x4C4B4A49, 0x504F4E4D] 0x5F697061 0x5F697061
     let T := hashInputs [0x44434241, 0x48474645, 0x4C4B4A49, 0x004F4E4D] 0x5F697061 0x5F697061
     S ≠ T ∧ S.seed = T.seed ∧ (∀ i, i < effLen S 15 → msgByte T i = msgByte S i) ∧ effLen S 15 = 15) ∧
    (let S := hashInputs [0x00697061, 0x78] 0x5F697061 0x5F697061
     let T := hashInputs [0x00697061] 0x5F697061 0x5F697061
     S ≠ T ∧ S.seed = T.seed ∧ (∀ i, i < effLen S 15 → msgByte T i = msgByte S i) ∧
       msgByte T (effLen S 15) = 0) := by decide +kernel

/-- One host at its program's end, one that has faulted. -/
theorem witness_EndedRunRests :
    let a := { HostAgent.load [.cmd .hashn] with pc := 1 }
    let b := { HostAgent.load [.cmd .hashn] with fault := some (.busError 0x012) }
    let s : State := { engine := idleEngine false true false 0 4, hosts := [a, b], turns := [] }
    s.Inv ∧ RunOver s ∧ s.turns = [] := by
  refine ⟨⟨⟨rfl, fun h => absurd h (by decide), fun f h => (by cases h), fun _ => rfl, fun h => absurd h (by decide),
    by decide, by decide, by decide⟩, ?_⟩, ⟨?_, rfl⟩, rfl⟩
  · intro c hc
    have hv : c.vars = [] := by
      rcases List.mem_pair.mp hc with rfl | rfl <;> rfl
    rw [hv]
    exact ⟨List.Pairwise.nil, fun q hq => absurd hq List.not_mem_nil⟩
  · intro c hc
    rcases List.mem_pair.mp hc with rfl | rfl <;> rfl

end Sys2Proof.Tests
end

section
/-! What the turn of a host does: the statement it runs, the write it makes, and the hosts it leaves alone. -/

namespace Sys2Proof.Machine

theorem step_of_host {s : State} {h : Nat} (hn : s.nextTurn = .host h) : step s = hostTurn h s.popTurn := by
  rw [step_eq_takeTurn, hn, takeTurn]

theorem hostTurn_of_absent {h : Nat} {s : State} (ha : s.hosts[h]? = none) : hostTurn h s = .next s := by
  simp [hostTurn, ha]

theorem hostTurn_of_stopped {h : Nat} {a : HostAgent} {s : State} (ha : s.hosts[h]? = some a)
    (hf : a.fetch = none) : hostTurn h s = .next s := by
  simp [hostTurn, ha, hf]

theorem hostTurn_of_fetch {h : Nat} {a : HostAgent} {t : HostStmt} {s : State} (ha : s.hosts[h]? = some a)
    (hf : a.fetch = some t) : hostTurn h s = hostStmt h a t s := by
  simp [hostTurn, ha, hf]

/-- A host's turn replaces at most that host (R16). -/
theorem hostTurn_hosts {h : Nat} {s s' : State} (hs : hostTurn h s = .next s') :
    s'.hosts = s.hosts ∨ ∃ a', s'.hosts = s.hosts.set h a' := by
  cases ha : s.hosts[h]? with
  | none =>
    rw [hostTurn_of_absent ha] at hs
    injection hs with hs
    exact .inl (hs ▸ rfl)
  | some a =>
    cases hf : a.fetch with
    | none =>
      rw [hostTurn_of_stopped ha hf] at hs
      injection hs with hs
      exact .inl (hs ▸ rfl)
    | some t =>
      rw [hostTurn_of_fetch ha hf] at hs
      rcases hostStmt_cases hf hs with rfl | ⟨a', rfl⟩ | ⟨off, v, -, rfl⟩
      · exact .inl rfl
      · exact .inr ⟨a', rfl⟩
      · exact .inr ⟨a.advance, rfl⟩

/-- Every register lies in the window (R21, R50). -/
theorem offset_lt_window (r : Reg) : r.offset < 0x100 := by
  cases r <;> simp only [Reg.offset] <;> omega

/-- Every register's offset is 4-byte aligned (R21). -/
theorem offset_aligned (r : Reg) : r.offset % 4 = 0 := by
  cases r <;> simp only [Reg.offset] <;> omega

/-- What `windowOffset` answers is an offset in the window (R50). -/
theorem windowOffset_lt {addr off : Nat} (h : windowOffset addr = some off) : off < 0x100 := by
  unfold windowOffset at h
  split at h
  next hw =>
    injection h with h
    exact h ▸ hw.2
  next => cases h

/-- The three statements that make a legal bus write (R54, R77). -/
theorem pendingWrite_cases {a : HostAgent} {off : Nat} {v : Word} (hp : a.pendingWrite = some (off, v)) :
    (∃ r x, a.fetch = some (.wr r x) ∧ off = r.offset ∧ v = a.value x) ∨
    (∃ i, a.fetch = some (.cmd i) ∧ off = Reg.offset .cmd ∧ v = encode i) ∨
    (∃ addr size x, a.fetch = some (.busWrite addr size x) ∧ windowOffset addr = some off ∧
      accessLegal off size = true ∧ v = a.value x) := by
  cases hf : a.fetch with
  | none => simp [HostAgent.pendingWrite, hf] at hp
  | some t =>
    simp only [HostAgent.pendingWrite, hf] at hp
    cases t with
    | wr r x =>
      cases hp
      exact .inl ⟨r, x, rfl, rfl, rfl⟩
    | cmd i =>
      cases hp
      exact .inr (.inl ⟨i, rfl, rfl, rfl⟩)
    | busWrite addr size x =>
      cases hw : windowOffset addr with
      | none => simp [hw] at hp
      | some off' =>
        by_cases hl : accessLegal off' size = true
        · simp only [hw, hl, if_true] at hp
          cases hp
          exact .inr (.inr ⟨addr, size, x, rfl, hw, hl, rfl⟩)
        · simp [hw, hl] at hp
    | _ => cases hp

/-- A legal write is 4-byte aligned and in the window (R50, R54). -/
theorem pendingWrite_bounds {a : HostAgent} {off : Nat} {v : Word} (hp : a.pendingWrite = some (off, v)) :
    off % 4 = 0 ∧ off < 0x100 := by
  rcases pendingWrite_cases hp with ⟨r, -, -, rfl, -⟩ | ⟨-, -, rfl, -⟩ | ⟨addr, size, -, -, hw, hl, -⟩
  · exact ⟨offset_aligned r, offset_lt_window r⟩
  · exact ⟨offset_aligned .cmd, offset_lt_window .cmd⟩
  · exact ⟨(of_decide_eq_true hl).2, windowOffset_lt hw⟩

theorem hostWrite_of_legal {h off size : Nat} {a : HostAgent} {v : Word} {s : State}
    (hl : accessLegal off size = true) :
    hostWrite h a off size v s = writeWindow off v (s.withHost h a.advance) := by
  simp [hostWrite, hl]

/-- The turn of a host that is about to make a legal write is that write, with the host moved on (R54, R58). -/
theorem hostTurn_of_pendingWrite {h : Nat} {a : HostAgent} {off : Nat} {v : Word} {s : State}
    (ha : s.hosts[h]? = some a) (hp : a.pendingWrite = some (off, v)) :
    hostTurn h s = writeWindow off v (s.withHost h a.advance) := by
  rcases pendingWrite_cases hp with ⟨r, x, hf, rfl, rfl⟩ | ⟨i, hf, rfl, rfl⟩ | ⟨addr, size, x, hf, hw, hl, rfl⟩ <;>
    rw [hostTurn_of_fetch ha hf, hostStmt]
  · exact hostWrite_of_legal (accessLegal_offset r)
  · exact hostWrite_of_legal (accessLegal_offset .cmd)
  · rw [hw]
    exact hostWrite_of_legal hl

/-- Settles O28: the host's turn replaces at most entry `h` of the host list. -/
theorem hostStepLeavesOtherHosts : Obligations.HostStepLeavesOtherHosts := by
  intro s t h k hn hs hk
  rw [step_of_host hn] at hs
  rcases hostTurn_hosts hs with he | ⟨a', he⟩
  · rw [he, popTurn_hosts]
  · rw [he, popTurn_hosts, List.getElem?_set_ne hk.symm]

/-- Settles O26: the pending write is one of three statements, each of which makes exactly that window write. -/
theorem hostWriteReachesTheWindow : Obligations.HostWriteReachesTheWindow := by
  intro s h a off v hn ha hp
  obtain ⟨haligned, hwindow⟩ := pendingWrite_bounds hp
  refine ⟨haligned, hwindow, ?_⟩
  calc step s = hostTurn h s.popTurn := step_of_host hn
    _ = writeWindow off v (s.popTurn.withHost h a.advance) := hostTurn_of_pendingWrite ha hp

end Sys2Proof.Machine
end

section
/-! The register map (10_state.md R21, R38): offsets and registers determine each other, and a register is read
and written at its own offset. -/

namespace Sys2Proof.Machine

/-- The register found at word `n` of the window has its offset there (R21). -/
theorem offset_of_regAtWord {n : Nat} {r : Reg} (h : regAtWord n = some r) : r.offset = 4 * n := by
  unfold regAtWord at h
  split at h
  case h_9 m =>
    split_ifs at h <;> cases h <;> simp only [Reg.offset] <;> omega
  all_goals cases h <;> rfl

/-- Words 7, 28 to 31 and 48 onwards hold no register (R38). -/
theorem regAtWord_eq_none {n : Nat} : regAtWord n = none ↔ n = 7 ∨ (28 ≤ n ∧ n ≤ 31) ∨ 48 ≤ n := by
  unfold regAtWord
  split
  case h_9 m => split_ifs <;> simp <;> omega
  all_goals simp

/-- An aligned offset at which a register is found is that register's offset (R21, R39). -/
theorem offset_of_regAt {off : Nat} {r : Reg} (hoff : off % 4 = 0) (h : regAt off = some r) : off = r.offset := by
  have := offset_of_regAtWord h
  omega

/-- No two registers share an offset (R39). -/
theorem offset_inj {r q : Reg} : r.offset = q.offset ↔ r = q := by
  refine ⟨fun h => ?_, fun h => h ▸ rfl⟩
  have hr := regAt_offset r
  rw [h, regAt_offset] at hr
  exact (Option.some.inj hr).symm

theorem readWindow_of_reserved {off : Nat} (h : regAt off = none) (e : Engine) : readWindow e off = 0 := by
  simp [readWindow, h]

@[simp] theorem readWindow_offset (e : Engine) (r : Reg) : readWindow e r.offset = e.read r := by
  simp [readWindow]

/-- After reset every register but ID and the two constants reads 0 (R46). -/
theorem Engine.reset_read (r : Reg) (hid : r ≠ .id) (hb : ∀ i, r ≠ .wcb i) (hd : ∀ i, r ≠ .wcd i) :
    Engine.reset.read r = 0 := by
  cases r with
  | id => exact absurd rfl hid
  | wcb i => exact absurd rfl (hb i)
  | wcd i => exact absurd rfl (hd i)
  | seed i | data i | res i | key i | msg i => fin_cases i <;> rfl
  | ctrl | status | cmd | info => decide

/-- A bus write at a register other than CMD stores into that register (R58). -/
theorem busStore_of_reg {off : Nat} {r : Reg} (h : regAt off = some r) (hr : r ≠ .cmd) (v : Word) (e : Engine) :
    e.busStore off v = e.write r v := by
  unfold Engine.busStore
  rw [h]
  cases r with
  | cmd => exact absurd rfl hr
  | _ => rfl

theorem busStore_of_cmd {off : Nat} (h : regAt off = some .cmd) (v : Word) (e : Engine) :
    e.busStore off v = e.request v := by
  simp [Engine.busStore, h]

theorem busStore_of_reserved {off : Nat} (h : regAt off = none) (v : Word) (e : Engine) :
    e.busStore off v = e := by
  simp [Engine.busStore, h]

theorem busStore_ctrl (v : Word) (e : Engine) : e.busStore 0x004 v = { e with ie := v.getLsbD 0 } := rfl

theorem busStore_status (v : Word) (e : Engine) :
    e.busStore 0x008 v = { e with status := e.status.acknowledge v } := rfl

end Sys2Proof.Machine
end

section
/-! The command word and its command (30_encoding.md R70 to R75). -/

namespace Sys2Proof

/-- The opcode map answers the command of that opcode (R72). -/
theorem opcode_of_instrOfOpcode {op : Nibble} {i : Instr} (h : instrOfOpcode op = some i) : op = opcode i := by
  unfold instrOfOpcode at h
  split_ifs at h with h1 h2 h3 h4 h5 h6 h7 <;> cases h <;> assumption

/-- A command word is its two fields side by side (R70). -/
theorem rsvField_append_opField (v : Word) : rsvField v ++ opField v = v := by
  unfold rsvField opField
  ext j hj
  simp only [BitVec.getElem_append, BitVec.getElem_extractLsb']
  split
  · rw [BitVec.getLsbD_eq_getElem (by omega)]; simp
  · rw [BitVec.getLsbD_eq_getElem (by omega)]; congr 1; omega

@[simp] theorem decode_encode (i : Instr) : decode (encode i) = .op i := by
  cases i <;> decide

@[simp] theorem encode_inj {i j : Instr} : encode i = encode j ↔ i = j := by
  refine ⟨fun h => ?_, fun h => h ▸ rfl⟩
  have hd := decode_encode i
  rw [h, decode_encode] at hd
  exact (Decoded.op.inj hd).symm

/-- A word that decodes to a command is that command's word (R72, R75). -/
theorem eq_encode_of_decode {v : Word} {i : Instr} (h : decode v = .op i) : v = encode i := by
  unfold decode at h
  split at h
  case isTrue => cases h
  case isFalse hr =>
    cases hi : instrOfOpcode (opField v) with
    | none => simp [hi] at h
    | some j =>
      simp only [hi, Decoded.op.injEq] at h
      rw [← rsvField_append_opField v, opcode_of_instrOfOpcode hi, not_not.mp hr, h, encode]

/-- A word that decodes to no command is no command's word (R75). -/
theorem ne_encode_of_decode {v : Word} (hd : ∀ i, decode v ≠ .op i) (i : Instr) : v ≠ encode i := by
  rintro rfl
  exact hd i (decode_encode i)

end Sys2Proof
end

section
/-! What a step does to the engine: it is one of six events, each told by the turn it takes and the bus write it
makes. The statements about single registers and flags are read off from the event. -/

namespace Sys2Proof.Machine

/-- The events of the engine in one step of the machine (10_state.md R25 to R29, R39; 60_exceptions.md R136 to R140),
with the engine they leave. -/
inductive EngineEvent (s : State) : Engine → Prop where
  /-- The completion of the command in flight (R139). -/
  | completion {f : InFlight} (turn : s.nextTurn = .engine) (write : s.pendingWrite = none)
      (record : s.engine.inflight = some f) : EngineEvent s (s.engine.commit (result f.op f.snap))
  /-- Reset (R160). -/
  | reset (turn : s.nextTurn = .reset) (write : s.pendingWrite = none) : EngineEvent s Engine.reset
  /-- The CMD write of a command's word while BUSY = 0 (R137). -/
  | acceptance {h : Nat} {i : Instr} (turn : s.nextTurn = .host h)
      (write : s.pendingWrite = some (0x00C, encode i)) (ready : s.engine.status.busy = false) :
      EngineEvent s (s.engine.accept i)
  /-- A CMD write while BUSY = 1, or of a word that is no command's (R140). -/
  | rejection {h : Nat} {v : Word} (c : ErrCode) (turn : s.nextTurn = .host h)
      (write : s.pendingWrite = some (0x00C, v))
      (cause : s.engine.status.busy = true ∨ ∀ i, decode v ≠ .op i) : EngineEvent s (s.engine.reject c)
  /-- The write of a register other than CMD (R58). -/
  | store {h : Nat} {r : Reg} {v : Word} (turn : s.nextTurn = .host h)
      (write : s.pendingWrite = some (r.offset, v)) (reg : r ≠ .cmd) : EngineEvent s (s.engine.write r v)
  /-- A step that concerns no register: a completion that is not enabled (R138), a host's step that writes nothing,
  or its write to reserved space (R38). -/
  | idle (engine : s.nextTurn = .engine → s.engine.inflight = none) (reset : s.nextTurn ≠ .reset)
      (write : ∀ (r : Reg) (v : Word), s.pendingWrite ≠ some (r.offset, v)) : EngineEvent s s.engine

/-- The bus write of a step is that of the host whose turn it is. -/
theorem pendingWrite_eq_some {s : State} {off : Nat} {v : Word} (hp : s.pendingWrite = some (off, v)) :
    ∃ h a, s.nextTurn = .host h ∧ s.hosts[h]? = some a ∧ a.pendingWrite = some (off, v) := by
  unfold State.pendingWrite at hp
  cases hn : s.nextTurn with
  | host h =>
    cases ha : s.hosts[h]? with
    | none => simp [hn, ha] at hp
    | some a => exact ⟨h, a, rfl, ha, by simpa [hn, ha] using hp⟩
  | engine => simp [hn] at hp
  | reset => simp [hn] at hp

theorem pendingWrite_of_engine {s : State} (hn : s.nextTurn = .engine) : s.pendingWrite = none := by
  simp [State.pendingWrite, hn]

theorem pendingWrite_of_reset {s : State} (hn : s.nextTurn = .reset) : s.pendingWrite = none := by
  simp [State.pendingWrite, hn]

/-- The bus write of a step reaches the engine (R54, R58). -/
theorem step_engine_of_pendingWrite {s t : State} {off : Nat} {v : Word} (hp : s.pendingWrite = some (off, v))
    (hs : step s = .next t) : t.engine = s.engine.busStore off v := by
  obtain ⟨h, a, hn, ha, hw⟩ := pendingWrite_eq_some hp
  obtain ⟨-, -, hstep⟩ := hostWriteReachesTheWindow s h a off v hn ha hw
  rw [hstep, writeWindow_eq] at hs
  injection hs with hs
  exact hs ▸ rfl

/-- A CMD write is an acceptance or a rejection (R136). -/
theorem engineEvent_request {s : State} {h : Nat} {v : Word} (hn : s.nextTurn = .host h)
    (hp : s.pendingWrite = some (0x00C, v)) : EngineEvent s (s.engine.request v) := by
  unfold Engine.request
  by_cases hb : s.engine.status.busy = true
  · simpa only [hb, if_true] using EngineEvent.rejection .busy hn hp (.inl hb)
  · simp only [hb, Bool.false_eq_true, if_false]
    cases hd : decode v with
    | rsvBits => exact .rejection .rsvBits hn hp (.inr fun i => by simp [hd])
    | illegalOp => exact .rejection .illegalOp hn hp (.inr fun i => by simp [hd])
    | op i => exact .acceptance hn (eq_encode_of_decode hd ▸ hp) (by simpa using hb)

/-- A host's bus write is one of the events (R58). -/
theorem engineEvent_busStore {s : State} {h off : Nat} {v : Word} (hn : s.nextTurn = .host h)
    (hp : s.pendingWrite = some (off, v)) : EngineEvent s (s.engine.busStore off v) := by
  obtain ⟨-, a, -, -, hw⟩ := pendingWrite_eq_some hp
  obtain ⟨haligned, -⟩ := pendingWrite_bounds hw
  cases hr : regAt off with
  | none =>
    rw [busStore_of_reserved hr]
    refine .idle (by simp [hn]) (by simp [hn]) fun r w hq => ?_
    obtain ⟨rfl, -⟩ := Prod.mk.inj (Option.some.inj (hp.symm.trans hq))
    simp at hr
  | some r =>
    obtain rfl := offset_of_regAt haligned hr
    by_cases hc : r = .cmd
    · subst hc
      rw [busStore_of_cmd hr]
      exact engineEvent_request hn hp
    · rw [busStore_of_reg hr hc]
      exact .store hn hp hc

/-- Every step is one of the events. -/
theorem engineEvent_of_step {s t : State} (hs : step s = .next t) : EngineEvent s t.engine := by
  rcases step_engine_cases hs with ⟨hn, he⟩ | ⟨hn, he⟩ | ⟨h, hn, he⟩
  · rw [he]
    cases hf : s.engine.inflight with
    | none =>
      rw [complete_of_none hf]
      exact .idle (fun _ => hf) (by simp [hn]) (by simp [pendingWrite_of_engine hn])
    | some f =>
      rw [complete_of_some hf]
      exact .completion hn (pendingWrite_of_engine hn) hf
  · rw [he]
    exact .reset hn (pendingWrite_of_reset hn)
  · cases hp : s.pendingWrite with
    | some p =>
      rw [step_engine_of_pendingWrite hp hs]
      exact engineEvent_busStore hn hp
    | none =>
      have hsame : t.engine = s.engine := by simpa [hp] using he
      rw [hsame]
      exact .idle (by simp [hn]) (by simp [hn]) (by simp [hp])

/-- An offset is CMD's only for CMD, and STATUS's only for STATUS (R21). -/
@[simp] theorem offset_eq_cmd {r : Reg} : r.offset = 0x00C ↔ r = .cmd := offset_inj (q := .cmd)

@[simp] theorem offset_eq_status {r : Reg} : r.offset = 0x008 ↔ r = .status := offset_inj (q := .status)

end Sys2Proof.Machine
end

section
/-! The writers of RES, INFO, the input registers and the fields of STATUS, read off from the six events. -/

namespace Sys2Proof.Machine

/-- Settles O38: of the six events only a completion and reset write RES or INFO. -/
theorem resultsChangeOnlyAtCompletion : Obligations.ResultsChangeOnlyAtCompletion := by
  intro s t hs hchange
  have hev := engineEvent_of_step hs
  generalize t.engine = e at hev hchange ⊢
  cases hev with
  | @completion f turn _ record => exact .inl ⟨turn, f, record, rfl, rfl, rfl, rfl, rfl⟩
  | reset turn => exact .inr ⟨turn, rfl⟩
  | _ => simp at hchange

/-- The input registers, SEED, DATA, KEY and MSG (R30 to R33). -/
def Reg.IsInput (r : Reg) : Prop :=
  (∃ i, r = .seed i) ∨ (∃ i, r = .data i) ∨ (∃ i, r = .key i) ∨ (∃ i, r = .msg i)

/-- What an input register reads depends on the input registers alone. -/
theorem Reg.IsInput.read_congr {r : Reg} (hr : r.IsInput) {d e : Engine} (h : d.inputs = e.inputs) :
    d.read r = e.read r := by
  rcases hr with ⟨i, rfl⟩ | ⟨i, rfl⟩ | ⟨i, rfl⟩ | ⟨i, rfl⟩ <;> simp [Engine.read, h]

/-- An input register reads back what was stored (R58). -/
theorem Reg.IsInput.read_write_self {r : Reg} (hr : r.IsInput) (e : Engine) (v : Word) :
    (e.write r v).read r = v := by
  rcases hr with ⟨i, rfl⟩ | ⟨i, rfl⟩ | ⟨i, rfl⟩ | ⟨i, rfl⟩ <;> simp [Engine.read, Engine.write]

/-- A store in another register leaves what an input register reads (R58). -/
theorem Reg.IsInput.read_write_ne {r q : Reg} (hr : r.IsInput) (hq : q ≠ r) (e : Engine) (v : Word) :
    (e.write q v).read r = e.read r := by
  cases q with
  | seed | data | key | msg =>
    rcases hr with ⟨i, rfl⟩ | ⟨i, rfl⟩ | ⟨i, rfl⟩ | ⟨i, rfl⟩ <;> simp_all [Engine.read, Engine.write, Fin.ext_iff]
  | _ => exact hr.read_congr rfl

theorem Reg.IsInput.read_reset {r : Reg} (hr : r.IsInput) : Engine.reset.read r = 0 := by
  rcases hr with ⟨i, rfl⟩ | ⟨i, rfl⟩ | ⟨i, rfl⟩ | ⟨i, rfl⟩ <;> exact Engine.reset_read _ (by simp) (by simp) (by simp)

/-- Settles O39: of the six events only a register write and reset touch the input registers. -/
theorem inputsChangeOnlyByHostWrites : Obligations.InputsChangeOnlyByHostWrites := by
  intro s t r hs hinput hchange
  have hr : r.IsInput := hinput
  have hev := engineEvent_of_step hs
  generalize t.engine = e at hev hchange ⊢
  rw [readWindow_offset, readWindow_offset] at hchange
  rw [readWindow_offset]
  cases hev with
  | completion | acceptance | rejection => exact (hchange (hr.read_congr rfl)).elim
  | reset turn => exact .inr ⟨turn, hr.read_reset⟩
  | @store _ q v _ write =>
    by_cases hq : q = r
    · subst hq
      rw [hr.read_write_self]
      exact .inl write
    · exact (hchange (hr.read_write_ne hq _ v)).elim
  | idle => exact (hchange rfl).elim

/-- Settles O40: BUSY is written by an acceptance, a completion and reset. -/
theorem busyWriters : Obligations.BusyWriters := by
  intro s t hs
  have hev := engineEvent_of_step hs
  generalize t.engine = e at hev ⊢
  cases hev with
  | completion turn write record => simp [turn, write, record]
  | reset turn write => simp [turn, write, Engine.reset]
  | acceptance _ write ready => simp +contextual [write, ready]
  | rejection c turn write cause =>
    rcases cause with hb | hd
    · simp [turn, write, hb]
    · simp [turn, write, ne_encode_of_decode hd]
  | store turn write reg => simp [turn, write, reg]
  | idle engine reset write =>
    have hcmd : ∀ v, s.pendingWrite ≠ some (0x00C, v) := write .cmd
    simp +contextual [hcmd, reset, engine]

/-- Settles O41: DONE is written by a completion, an acceptance, a STATUS write and reset. -/
theorem doneWriters : Obligations.DoneWriters := by
  intro s t hs
  have hev := engineEvent_of_step hs
  generalize t.engine = e at hev ⊢
  cases hev with
  | completion turn write record => simp [turn, write, record]
  | reset turn write => simp [turn, write, Engine.reset]
  | acceptance turn write ready => simp [turn, write, ready]
  | rejection c turn write cause =>
    rcases cause with hb | hd
    · simp [turn, write, hb]
    · simp [turn, write, ne_encode_of_decode hd]
  | @store _ r _ turn write reg =>
    by_cases hr : r = .status <;> simp +contextual [turn, write, reg, write_status, hr, bitOf]
  | idle engine reset write =>
    have hcmd : ∀ v, s.pendingWrite ≠ some (0x00C, v) := write .cmd
    have hstatus : ∀ v, s.pendingWrite ≠ some (0x008, v) := write .status
    simp +contextual [hcmd, hstatus, reset, engine]

/-- Settles O42: ERR is written by a rejection, a STATUS write and reset. -/
theorem errWriters : Obligations.ErrWriters := by
  intro s t hs
  have hev := engineEvent_of_step hs
  generalize t.engine = e at hev ⊢
  cases hev with
  | completion turn write => simp [turn, write]
  | reset turn write => simp [turn, write, Engine.reset]
  | acceptance turn write ready => simp [turn, write, ready]
  | rejection c turn write cause => simpa +contextual [turn, write] using fun _ => cause
  | @store _ r _ turn write reg =>
    by_cases hr : r = .status <;> simp +contextual [turn, write, reg, write_status, hr, bitOf]
  | idle engine reset write =>
    have hcmd : ∀ v, s.pendingWrite ≠ some (0x00C, v) := write .cmd
    have hstatus : ∀ v, s.pendingWrite ≠ some (0x008, v) := write .status
    simp [hcmd, hstatus, reset]

/-- Settles O43: LASTOP is written by an acceptance and reset. -/
theorem lastopWriters : Obligations.LastopWriters := by
  intro s t hs
  have hev := engineEvent_of_step hs
  generalize t.engine = e at hev ⊢
  cases hev with
  | completion turn write record => simp [turn, write]
  | reset turn write => simp [turn, write, Engine.reset]
  | acceptance turn write ready => simp +contextual [turn, write, ready]
  | rejection c turn write cause =>
    rcases cause with hb | hd
    · simp [turn, write, hb]
    · simp [turn, write, ne_encode_of_decode hd]
  | store turn write reg => simp [turn, write, reg]
  | idle engine reset write =>
    have hcmd : ∀ v, s.pendingWrite ≠ some (0x00C, v) := write .cmd
    simp [hcmd, reset]

end Sys2Proof.Machine
end

section
/-! INFO's bounds: what a command leaves in LEN and NBLK (10_state.md R36, 41_hash.md R105, R109). -/

namespace Sys2Proof.Machine

theorem scanLength_le (S : Inputs) (fuel L : Nat) : scanLength S fuel L ≤ L + fuel := by
  induction fuel generalizing L with
  | zero => simp [scanLength]
  | succ fuel ih =>
    unfold scanLength
    split
    · omega
    · have := ih (L + 1)
      omega

/-- `EffLen` never passes its cap (R105). -/
theorem effLen_le (S : Inputs) (cap : Nat) : effLen S cap ≤ cap := by
  simpa [effLen] using scanLength_le S cap 0

theorem padBlocks_len (S : Inputs) (B : Nat) : (padBlocks S B).len = effLen S Config.maxMessage := by
  simp only [padBlocks]
  split <;> rfl

/-- The full blocks, then one block, or two when the length field does not fit (R106, R109). -/
theorem length_padBlocks (S : Inputs) (B : Nat) :
    (padBlocks S B).blocks.length =
      effLen S Config.maxMessage / B + if effLen S Config.maxMessage % B ≥ B - 4 then 2 else 1 := by
  simp only [padBlocks]
  split <;> simp

/-- A hash of at most 64 bytes takes at most 5 blocks of 16 bytes, and no more of 32 (R36, R109). -/
theorem length_padBlocks_le (S : Inputs) {B : Nat} (hB : B = 16 ∨ B = 32) : (padBlocks S B).blocks.length ≤ 5 := by
  have hL : effLen S Config.maxMessage ≤ 64 := effLen_le S _
  rw [length_padBlocks]
  rcases hB with rfl | rfl <;> split <;> omega

/-- The bounds of R36. -/
def Info.InBounds (t : Info) : Prop := t.len.toNat ≤ 64 ∧ t.nblk.toNat ≤ 5

theorem Info.inBounds_of {len nblk : Nat} (hl : len ≤ 64) (hn : nblk ≤ 5) : (Info.of len nblk).InBounds := by
  simp only [Info.InBounds, Info.of, BitVec.toNat_ofNat]
  omega

theorem inBounds_of_padBlocks (S : Inputs) {B : Nat} (hB : B = 16 ∨ B = 32) :
    (Info.of (padBlocks S B).len (padBlocks S B).blocks.length).InBounds :=
  Info.inBounds_of (padBlocks_len S B ▸ effLen_le S _) (length_padBlocks_le S hB)

/-- Every command leaves INFO within its bounds (R36). -/
theorem result_info_inBounds (i : Instr) (S : Inputs) : (result i S).info.InBounds := by
  cases i with
  | enc64 | enc128 | encck => exact Info.inBounds_of (len := 0) (nblk := 1) (by omega) (by omega)
  | hashn | hashwc => exact inBounds_of_padBlocks S (.inl rfl)
  | hashws => exact inBounds_of_padBlocks S (.inr rfl)
  | macn => exact Info.inBounds_of (nblk := 3) (Nat.le_trans (effLen_le S Config.macCap) (by decide)) (by omega)

end Sys2Proof.Machine
end

section
/-! The invariant: the engine's part over the six events, the hosts' part over the statements of a program. -/

namespace Sys2Proof.Machine

theorem engineReset_inv : Engine.reset.Inv where
  busy_inflight := rfl
  busy_not_done := by decide
  lastop_inflight := by simp [Engine.reset]
  errcode_clear := fun _ => rfl
  errcode_named := by decide
  lastop_le := by decide
  len_le := by decide
  nblk_le := by decide

theorem opcode_le (i : Instr) : (opcode i).toNat ≤ 7 := by
  cases i <;> decide

theorem errCode_named (c : ErrCode) : c.code = 1 ∨ c.code = 2 ∨ c.code = 3 := by
  cases c <;> decide

theorem Engine.Inv.commit {e : Engine} {f : InFlight} (he : e.Inv) : (e.commit (result f.op f.snap)).Inv := by
  obtain ⟨hlen, hnblk⟩ := result_info_inBounds f.op f.snap
  exact { he with
    busy_inflight := rfl
    busy_not_done := by simp
    lastop_inflight := by simp
    len_le := hlen
    nblk_le := hnblk }

theorem Engine.Inv.accept {e : Engine} (he : e.Inv) (i : Instr) : (e.accept i).Inv :=
  { he with
    busy_inflight := rfl
    busy_not_done := fun _ => rfl
    lastop_inflight := by rintro f ⟨⟩; rfl
    lastop_le := opcode_le i }

theorem Engine.Inv.reject {e : Engine} (he : e.Inv) (c : ErrCode) : (e.reject c).Inv :=
  { he with
    errcode_clear := by simp
    errcode_named := by
      cases herr : e.status.err with
      | true => simpa [herr] using he.errcode_named herr
      | false => simpa [herr] using errCode_named c }

theorem Engine.Inv.acknowledge {e : Engine} (he : e.Inv) (v : Word) :
    ({ e with status := e.status.acknowledge v } : Engine).Inv :=
  { he with
    busy_not_done := fun hb => by simp [he.busy_not_done hb]
    errcode_clear := by
      by_cases hv : bitOf v 2 = true
      · simp [hv]
      · simpa [hv] using he.errcode_clear
    errcode_named := by
      by_cases hv : bitOf v 2 = true
      · simp [hv]
      · simpa [hv] using he.errcode_named }

/-- A register write touches what the invariant speaks of only at STATUS (R24). -/
theorem Engine.Inv.write {e : Engine} (he : e.Inv) (r : Reg) (v : Word) : (e.write r v).Inv := by
  cases r with
  | status => exact he.acknowledge v
  | _ => exact { he with }

/-- Every event of the engine keeps its invariant. -/
theorem EngineEvent.keeps_inv {s : State} {e : Engine} (hev : EngineEvent s e) (hs : s.engine.Inv) : e.Inv := by
  cases hev with
  | completion => exact hs.commit
  | reset => exact engineReset_inv
  | acceptance => exact hs.accept _
  | rejection c => exact hs.reject c
  | store => exact hs.write _ _
  | idle => exact hs

/-- Every host's variables are in canonical form. -/
def HostsWf (hosts : List HostAgent) : Prop := ∀ a ∈ hosts, varsWf a.vars

theorem HostsWf.set {hosts : List HostAgent} (hh : HostsWf hosts) (h : Nat) {b : HostAgent} (hb : varsWf b.vars) :
    HostsWf (hosts.set h b) := by
  intro a ha
  rcases List.mem_or_eq_of_mem_set ha with ha | rfl
  · exact hh a ha
  · exact hb

section
variable {h off size : Nat} {a : HostAgent} {s s' : State} (hh : HostsWf s.hosts) (ha : varsWf a.vars)
include hh ha

/-- A read keeps the canonical form: it writes one variable, or faults. -/
theorem hostRead_keeps_hostsWf {x : Nat} (hs : hostRead h a off size x s = .next s') : HostsWf s'.hosts := by
  unfold hostRead at hs
  split at hs <;> cases hs
  · exact hh.set h (varsWf_setVar ha x _)
  · exact hh.set h (b := a.stop off) ha

theorem hostWrite_keeps_hostsWf {v : Word} (hs : hostWrite h a off size v s = .next s') : HostsWf s'.hosts := by
  rw [hostWrite, writeWindow_eq] at hs
  split at hs <;> cases hs
  · exact hh.set h (b := a.advance) ha
  · exact hh.set h (b := a.stop off) ha

theorem hostBranch_keeps_hostsWf {taken : Bool} {l : Nat} (hs : hostBranch h a taken l s = .next s') :
    HostsWf s'.hosts := by
  unfold hostBranch at hs
  split at hs
  · cases hk : labelIndex a.prog l with
    | none => simp [hk] at hs
    | some k =>
      simp only [hk] at hs
      cases hs
      exact hh.set h (b := a.goto k) ha
  · cases hs
    exact hh.set h (b := a.advance) ha

theorem hostStmt_keeps_hostsWf {t : HostStmt} (hs : hostStmt h a t s = .next s') : HostsWf s'.hosts := by
  cases t with
  | wr | cmd => exact hostWrite_keeps_hostsWf hh ha hs
  | rd => exact hostRead_keeps_hostsWf hh ha hs
  | bnz | bz => exact hostBranch_keeps_hostsWf hh ha hs
  | label =>
    cases hs
    exact hh.set h (b := a.advance) ha
  | busRead addr =>
    simp only [hostStmt] at hs
    split at hs
    · exact hostRead_keeps_hostsWf hh ha hs
    · cases hs
  | busWrite addr =>
    simp only [hostStmt] at hs
    split at hs
    · exact hostWrite_keeps_hostsWf hh ha hs
    · cases hs
  | waitIrq =>
    simp only [hostStmt] at hs
    split at hs <;> cases hs
    · exact hh.set h (b := a.advance) ha
    · exact hh

end

theorem hostTurn_keeps_hostsWf {h : Nat} {s s' : State} (hh : HostsWf s.hosts) (hs : hostTurn h s = .next s') :
    HostsWf s'.hosts := by
  cases ha : s.hosts[h]? with
  | none =>
    rw [hostTurn_of_absent ha] at hs
    cases hs
    exact hh
  | some a =>
    cases hf : a.fetch with
    | none =>
      rw [hostTurn_of_stopped ha hf] at hs
      cases hs
      exact hh
    | some t =>
      rw [hostTurn_of_fetch ha hf] at hs
      exact hostStmt_keeps_hostsWf hh (hh a (List.mem_of_getElem? ha)) hs

/-- A step keeps the canonical form of the hosts' variables: only a host's turn touches a host. -/
theorem step_keeps_hostsWf {s t : State} (hh : HostsWf s.hosts) (hs : step s = .next t) : HostsWf t.hosts := by
  rw [step_eq_takeTurn] at hs
  cases hn : s.nextTurn with
  | host h =>
    rw [hn] at hs
    exact hostTurn_keeps_hostsWf (s := s.popTurn) hh hs
  | engine | reset =>
    rw [hn] at hs
    cases hs
    exact hh

/-- Settles O37: the event of the step keeps the engine's invariant, and every statement a host's variables. -/
theorem stepKeepsTheInvariant : Obligations.StepKeepsTheInvariant := by
  intro s t hinv hs
  exact ⟨(engineEvent_of_step hs).keeps_inv hinv.engine, step_keeps_hostsWf hinv.hosts hs⟩

/-- Settles O36: the engine's part field by field, and no host is loaded. -/
theorem resetMeetsTheInvariant : Obligations.ResetMeetsTheInvariant := by
  refine ⟨engineReset_inv, ?_⟩
  simp [State.reset]

/-- Settles O44: while BUSY no command is accepted, so of the events only the completion and reset touch the record. -/
theorem inFlightCommandIsUndisturbed : Obligations.InFlightCommandIsUndisturbed := by
  intro s t f hinv hs hf
  have hbusy : s.engine.status.busy = true := by simp [hinv.engine.busy_inflight, hf]
  have hev := engineEvent_of_step hs
  generalize t.engine = e at hev ⊢
  cases hev with
  | @completion g turn _ record =>
    obtain rfl : f = g := Option.some.inj (hf.symm.trans record)
    exact .inr (.inl ⟨turn, rfl, rfl, rfl⟩)
  | reset turn => exact .inr (.inr ⟨turn, rfl⟩)
  | acceptance _ _ ready => simp [hbusy] at ready
  | @rejection h _ _ turn => exact .inl ⟨h, turn, hf, hbusy⟩
  | @store h _ _ turn => exact .inl ⟨h, turn, by simpa using hf, by simpa using hbusy⟩
  | idle engine reset =>
    cases hn : s.nextTurn with
    | host h => exact .inl ⟨h, rfl, hf, hbusy⟩
    | engine => simp [engine hn] at hf
    | reset => exact absurd hn reset

end Sys2Proof.Machine
end

section
/-! The window at single offsets: what a read answers and what a write does (10_state.md R21 to R38, R44, R46). -/

namespace Sys2Proof.Machine

/-- Settles O4: word by word, `regAt` and `Reg.offset` are inverse to each other. -/
theorem registerMapOffsets : Obligations.RegisterMapOffsets := by
  have hmap (r : Reg) : regAt r.offset = some r ∧ r.offset % 4 = 0 ∧ r.offset < 0x100 :=
    ⟨regAt_offset r, offset_aligned r, offset_lt_window r⟩
  have hreserved (off : Nat) (h4 : off % 4 = 0) (hw : off < 0x100) :
      regAt off = none ↔ off = 0x01C ∨ (0x070 ≤ off ∧ off ≤ 0x07C) ∨ (0x0C0 ≤ off ∧ off ≤ 0x0FC) := by
    rw [regAt, regAtWord_eq_none]
    omega
  exact ⟨hmap, rfl, rfl, rfl, rfl, rfl, rfl, rfl, fun _ => rfl, fun _ => rfl, fun _ => rfl, rfl, rfl, rfl, rfl,
    fun _ => rfl, fun _ _ h4 hr => offset_of_regAt h4 hr, hreserved⟩

/-- The four single bits of STATUS as read (R24). -/
theorem Status.word_flags (t : Status) :
    t.word.getLsbD 0 = t.busy ∧ t.word.getLsbD 1 = t.done ∧ t.word.getLsbD 2 = t.err ∧
    t.word.getLsbD 3 = false := by
  simp only [Status.word, BitVec.getLsbD_append, flagBit]
  simp

/-- The fields of STATUS as read above its four single bits (R24). -/
theorem Status.word_fields (t : Status) :
    t.word.extractLsb' 4 4 = t.errcode ∧ t.word.extractLsb' 8 4 = t.lastop ∧ t.word.extractLsb' 12 20 = 0 := by
  unfold Status.word
  refine ⟨?_, ?_, ?_⟩
  · iterate 4 rw [BitVec.extractLsb'_append_eq_of_le (by decide)]
    exact BitVec.extractLsb'_append_eq_right
  · iterate 5 rw [BitVec.extractLsb'_append_eq_of_le (by decide)]
    exact BitVec.extractLsb'_append_eq_right
  · iterate 6 rw [BitVec.extractLsb'_append_eq_of_le (by decide)]
    exact BitVec.extractLsb'_eq_self

/-- The fields of INFO as read (R36). -/
theorem Info.word_fields (t : Info) :
    t.word.extractLsb' 0 7 = t.len ∧ t.word.getLsbD 7 = false ∧ t.word.extractLsb' 8 4 = t.nblk ∧
    t.word.extractLsb' 12 20 = 0 := by
  unfold Info.word
  refine ⟨BitVec.extractLsb'_append_eq_right, ?_, ?_, ?_⟩
  · simp only [BitVec.getLsbD_append]
    simp
  · iterate 2 rw [BitVec.extractLsb'_append_eq_of_le (by decide)]
    exact BitVec.extractLsb'_append_eq_right
  · iterate 3 rw [BitVec.extractLsb'_append_eq_of_le (by decide)]
    exact BitVec.extractLsb'_eq_self

theorem ctrlWord_eq (ie : Bool) : ctrlWord ie = if ie then 1 else 0 := by
  cases ie <;> decide

/-- A STATUS write clears by masking: DONE with v[1], ERR and ERRCODE with v[2] (R24). -/
theorem Status.acknowledge_eq (t : Status) (v : Word) : t.acknowledge v =
    { t with
      done := t.done && !v.getLsbD 1
      err := t.err && !v.getLsbD 2
      errcode := if v.getLsbD 2 then 0 else t.errcode } := by
  unfold Status.acknowledge bitOf
  cases v.getLsbD 1 <;> cases v.getLsbD 2 <;> simp

/-- Settles O5: a bus write at STATUS is `Status.acknowledge`. -/
theorem statusReadAndWriteOneToClear : Obligations.StatusReadAndWriteOneToClear := by
  intro s v
  obtain ⟨hbusy, hdone, herr, hzero⟩ := s.engine.status.word_flags
  refine ⟨⟨hbusy, hdone, herr, hzero, s.engine.status.word_fields⟩, ?_, by decide⟩
  calc writeWindow 0x008 v s
      = .next (s.withEngine { s.engine with status := s.engine.status.acknowledge v }) := writeWindow_eq 0x008 v s
    _ = _ := by rw [Status.acknowledge_eq]

/-- What a completion leaves in RES and INFO depends on the record, and without one on RES and INFO (R139). -/
theorem complete_results_congr {d e : Engine} (hf : d.inflight = e.inflight) (hres : d.res = e.res)
    (hinfo : d.info = e.info) : d.complete.res = e.complete.res ∧ d.complete.info = e.complete.info := by
  cases he : e.inflight with
  | none =>
    rw [complete_of_none he, complete_of_none (hf.trans he)]
    exact ⟨hres, hinfo⟩
  | some f =>
    rw [complete_of_some he, complete_of_some (hf.trans he)]
    exact ⟨rfl, rfl⟩

/-- Settles O6: a bus write at CTRL stores IE, which is no operand of a completion. -/
theorem ctrlReadAndWrite : Obligations.CtrlReadAndWrite := by
  intro s v
  obtain ⟨hres, hinfo⟩ :=
    complete_results_congr (d := { s.engine with ie := v.getLsbD 0 }) (e := s.engine) rfl rfl rfl
  exact ⟨writeWindow_eq 0x004 v s, hres, hinfo, ctrlWord_eq s.engine.ie, by decide⟩

/-- Settles O8: no register, or one that is not written, stands at these offsets. -/
theorem reservedAndReadOnlyIgnoreWrites : Obligations.ReservedAndReadOnlyIgnoreWrites := by
  intro s v off h4 hoff
  constructor
  · rw [writeWindow_eq]
    suffices h : s.engine.busStore off v = s.engine by simp [State.mapEngine, h, State.withEngine]
    cases hr : regAt off with
    | none => exact busStore_of_reserved hr v _
    | some r =>
      obtain rfl := offset_of_regAt h4 hr
      cases r with
      | id | info | res | wcb | wcd => exact busStore_of_reg hr (by simp) v _
      | _ => simp only [Reg.offset] at hoff; omega
  · intro hreserved
    have hr : regAt off = none := by
      rw [regAt, regAtWord_eq_none]
      omega
    exact readWindow_of_reserved hr _

/-- The CMD write of a command's word while BUSY = 0 is its acceptance (R136, R137). -/
theorem busStore_encode {e : Engine} (hb : e.status.busy = false) (i : Instr) :
    e.busStore 0x00C (encode i) = e.accept i := by
  rw [busStore_of_cmd rfl]
  simp [Engine.request, hb]

theorem irq_eq_true (e : Engine) : e.irq = true ↔ e.ie = true ∧ (e.status.done = true ∨ e.status.err = true) := by
  simp [Engine.irq]

/-- Settles O9: each is the read of the register at that offset. -/
theorem readOnlyRegisterReads : Obligations.ReadOnlyRegisterReads := by
  intro e
  exact ⟨rfl, rfl, fun i => readWindow_offset e (.res i), e.info.word_fields,
    pair64_hi_lo Config.wconstB, pair64_hi_lo Config.wconstD⟩

/-- Settles O32: at an aligned offset stands no register, or one of ID, WCB and WCD, or one that reads 0. -/
theorem resetStateValues : Obligations.ResetStateValues := by
  refine ⟨rfl, ?_, rfl, pair64_hi_lo Config.wconstB, pair64_hi_lo Config.wconstD, rfl, rfl⟩
  intro off h4 hid hconst
  cases hr : regAt off with
  | none => exact readWindow_of_reserved hr _
  | some r =>
    obtain rfl := offset_of_regAt h4 hr
    rw [readWindow_offset]
    refine Engine.reset_read r ?_ ?_ ?_
    · rintro rfl; exact hid rfl
    · rintro i rfl; simp only [Reg.offset] at hconst; omega
    · rintro i rfl; simp only [Reg.offset] at hconst; omega

/-- Settles O35: irq after each of the four writes, from the engine the write leaves. -/
theorem irqLevel : Obligations.IrqLevel := by
  intro s v
  refine ⟨irq_eq_true s.engine, fun hdone herr => ⟨_, writeWindow_eq _ _ _, ?_⟩,
    fun hie => ⟨_, writeWindow_eq _ _ _, ?_⟩, fun i hbusy herr => ⟨_, writeWindow_eq _ _ _, ?_⟩,
    fun hie hpending => ⟨_, writeWindow_eq _ _ _, ?_⟩⟩
  · rw [mapEngine_engine, busStore_status, Status.acknowledge_eq, Engine.irq]
    simp only [hdone, herr]
    simp
  · rw [mapEngine_engine, busStore_ctrl, Engine.irq, hie, Bool.false_and]
  · rw [mapEngine_engine, busStore_encode hbusy, Engine.irq]
    simp [herr]
  · rw [mapEngine_engine, busStore_ctrl, irq_eq_true]
    exact ⟨hie, hpending⟩

end Sys2Proof.Machine
end

section
/-! Single accesses of the window (20_memory.md R54, R57, R58, 60_exceptions.md R145): a store in an input register,
a legal read, and a malformed access. -/

namespace Sys2Proof.Machine

theorem Reg.IsInput.ne_cmd {r : Reg} (hr : r.IsInput) : r ≠ .cmd := by
  rintro rfl
  simp [Reg.IsInput] at hr

/-- A store in an input register changes the input registers alone (R58). -/
theorem Reg.IsInput.write_eq {r : Reg} (hr : r.IsInput) (e : Engine) (v : Word) :
    e.write r v = { e with inputs := (e.write r v).inputs } := by
  rcases hr with ⟨i, rfl⟩ | ⟨i, rfl⟩ | ⟨i, rfl⟩ | ⟨i, rfl⟩ <;> rfl

/-- What a register other than an input register reads does not depend on the input registers. -/
theorem read_withInputs_of_not_isInput {q : Reg} (hq : ¬ q.IsInput) (e : Engine) (S : Inputs) :
    { e with inputs := S }.read q = e.read q := by
  cases q with
  | seed i => exact (hq (.inl ⟨i, rfl⟩)).elim
  | data i => exact (hq (.inr (.inl ⟨i, rfl⟩))).elim
  | key i => exact (hq (.inr (.inr (.inl ⟨i, rfl⟩)))).elim
  | msg i => exact (hq (.inr (.inr (.inr ⟨i, rfl⟩)))).elim
  | _ => rfl

/-- A store in an input register leaves what every other register reads (R58). -/
theorem Reg.IsInput.read_other_write {r q : Reg} (hr : r.IsInput) (hq : q ≠ r) (e : Engine) (v : Word) :
    (e.write r v).read q = e.read q := by
  by_cases hi : q.IsInput
  · exact hi.read_write_ne hq.symm e v
  · rw [hr.write_eq, read_withInputs_of_not_isInput hi]

/-- A store in an input register leaves what every other aligned offset reads (R58). -/
theorem Reg.IsInput.readWindow_other_write {r : Reg} (hr : r.IsInput) {off : Nat} (h4 : off % 4 = 0)
    (hoff : off ≠ r.offset) (e : Engine) (v : Word) : readWindow (e.write r v) off = readWindow e off := by
  cases hq : regAt off with
  | none => rw [readWindow_of_reserved hq, readWindow_of_reserved hq]
  | some q =>
    obtain rfl := offset_of_regAt h4 hq
    rw [readWindow_offset, readWindow_offset]
    exact hr.read_other_write (fun h => hoff (h ▸ rfl)) e v

/-- Settles O7: the bus write is the register's store, and that changes the input registers alone. -/
theorem inputRegisterWriteStores : Obligations.InputRegisterWriteStores := by
  intro s v r hinput
  have hr : r.IsInput := hinput
  have hstore : writeWindow r.offset v s = .next (s.withEngine (s.engine.write r v)) := by
    rw [writeWindow_eq, State.mapEngine, busStore_of_reg (regAt_offset r) hr.ne_cmd]
  refine ⟨_, hstore, ?_, fun off h4 hoff => hr.readWindow_other_write h4 hoff s.engine v, ?_, ?_, rfl, rfl⟩
  · rw [withEngine_engine, readWindow_offset, hr.read_write_self]
  · rw [withEngine_engine, hr.write_eq]
  · rw [withEngine_engine, write_inflight]

/-- The legal accesses are the 32-bit ones at a multiple of 4 (R54). -/
theorem accessLegal_iff {off size : Nat} : accessLegal off size = true ↔ size = 4 ∧ off % 4 = 0 := by
  simp [accessLegal]

theorem hostRead_of_legal {h off size x : Nat} {a : HostAgent} {s : State} (hl : accessLegal off size = true) :
    hostRead h a off size x s = .next (s.withHost h (a.receive x (readWindow s.engine off))) := by
  simp [hostRead, hl]

theorem hostRead_of_malformed {h off size x : Nat} {a : HostAgent} {s : State} (hl : ¬ accessLegal off size = true) :
    hostRead h a off size x s = .next (s.withHost h (a.stop off)) := by
  simp [hostRead, hl]

theorem hostWrite_of_malformed {h off size : Nat} {a : HostAgent} {v : Word} {s : State}
    (hl : ¬ accessLegal off size = true) : hostWrite h a off size v s = .next (s.withHost h (a.stop off)) := by
  simp [hostWrite, hl]

theorem hostStmt_busRead {h off size x : Nat} {a : HostAgent} {s : State} (hw : off < 0x100) :
    hostStmt h a (.busRead (Config.base + off) size x) s = hostRead h a off size x s := by
  simp [hostStmt, hw]

theorem hostStmt_busWrite {h off size : Nat} {v : HostVal} {a : HostAgent} {s : State} (hw : off < 0x100) :
    hostStmt h a (.busWrite (Config.base + off) size v) s = hostWrite h a off size (a.value v) s := by
  simp [hostStmt, hw]

theorem step_of_fetch {s : State} {h : Nat} {a : HostAgent} {t : HostStmt} (hn : s.nextTurn = .host h)
    (ha : s.hosts[h]? = some a) (hf : a.fetch = some t) : step s = hostStmt h a t s.popTurn := by
  rw [step_of_host hn]
  exact hostTurn_of_fetch ha hf

/-- A faulted host has no next statement (R145). -/
theorem fetch_of_fault {a : HostAgent} (hf : a.fault ≠ none) : a.fetch = none := by
  obtain ⟨f, hf⟩ := Option.ne_none_iff_exists'.mp hf
  simp [HostAgent.fetch, hf]

/-- Settles O10: both statement forms are the legal read, which replaces the reading host alone. -/
theorem readHasNoSideEffect : Obligations.ReadHasNoSideEffect := by
  intro s h a off x hn ha h4 hw hf
  have hstep : step s = .next (s.popTurn.withHost h (a.receive x (readWindow s.engine off))) := by
    have hread := hostRead_of_legal (h := h) (x := x) (a := a) (s := s.popTurn) (accessLegal_iff.mpr ⟨rfl, h4⟩)
    rcases hf with hf | ⟨r, rfl, hf⟩
    · rw [step_of_fetch hn ha hf, hostStmt_busRead hw, hread, popTurn_engine]
    · rw [step_of_fetch hn ha hf, hostStmt, hread, popTurn_engine]
  exact ⟨_, _, hstep, rfl, rfl, rfl, rfl, rfl, rfl, varOf_setVar_self _ _ _, fun y hy => varOf_setVar_ne _ _ hy⟩

/-- Settles O11: the malformed access stops its host with the fault, and a faulted host has no statement to run. -/
theorem malformedAccessFaultsItsHost : Obligations.MalformedAccessFaultsItsHost := by
  intro s h a hn ha
  constructor
  · intro off size hw hbad hf
    have hl : ¬ accessLegal off size = true := by
      rw [accessLegal_iff]
      omega
    have hstep : step s = .next (s.popTurn.withHost h (a.stop off)) := by
      rcases hf with ⟨x, hf⟩ | ⟨v, hf⟩
      · rw [step_of_fetch hn ha hf, hostStmt_busRead hw, hostRead_of_malformed hl]
      · rw [step_of_fetch hn ha hf, hostStmt_busWrite hw, hostWrite_of_malformed hl]
    exact ⟨_, hstep, rfl, rfl, rfl⟩
  · intro hfault
    rw [step_of_host hn]
    exact hostTurn_of_stopped ha (fetch_of_fault hfault)

end Sys2Proof.Machine
end

section
/-! The outcomes of the decoder over all command words (30_encoding.md R70 to R75). -/

namespace Sys2Proof

/-- The decoder names the command of a word exactly when the word is the command's (R72, R75). -/
theorem decode_eq_op {v : Word} {i : Instr} : decode v = .op i ↔ v = encode i :=
  ⟨eq_encode_of_decode, fun h => h ▸ decode_encode i⟩

/-- A table word reads as a command exactly when it fits 32 bits and decodes to that command (R71). -/
theorem decodeTableWord_eq_some {nbits w : Nat} {i : Instr} :
    decodeTableWord nbits w = some i ↔
      w % 2 ^ nbits < 2 ^ 32 ∧ decode (BitVec.ofNat 32 (w % 2 ^ nbits)) = .op i := by
  unfold decodeTableWord
  by_cases hlt : w % 2 ^ nbits < 2 ^ 32
  · rw [if_pos hlt, and_iff_right hlt]
    cases decode (BitVec.ofNat 32 (w % 2 ^ nbits)) <;> simp
  · rw [if_neg hlt]
    exact ⟨nofun, fun h => (hlt h.1).elim⟩

/-- A command word taken as a 32-bit table word is itself (R71). -/
theorem decodeTableWord_toNat {v : Word} {i : Instr} : decodeTableWord 32 v.toNat = some i ↔ decode v = .op i := by
  have hcut : v.toNat % 2 ^ 32 = v.toNat := Nat.mod_eq_of_lt v.isLt
  rw [decodeTableWord_eq_some, hcut, BitVec.ofNat_toNat, BitVec.setWidth_eq]
  exact and_iff_right v.isLt

/-- Settles O3: the decoder names exactly the command's own word, and a 32-bit table word is read by the decoder. -/
theorem decodeAgreesWithEncode : Obligations.DecodeAgreesWithEncode := by
  intro v i
  exact ⟨decode_eq_op, decodeTableWord_toNat.trans decode_eq_op⟩

/-- The reserved bits are looked at first (R75). -/
theorem decode_eq_rsvBits {v : Word} : decode v = .rsvBits ↔ rsvField v ≠ 0 := by
  by_cases hr : rsvField v ≠ 0
  · rw [decode, if_pos hr]
    exact iff_of_true rfl hr
  · rw [decode, if_neg hr]
    cases instrOfOpcode (opField v) <;> exact ⟨nofun, fun h => (hr h).elim⟩

theorem decode_eq_illegalOp {v : Word} :
    decode v = .illegalOp ↔ rsvField v = 0 ∧ instrOfOpcode (opField v) = none := by
  by_cases hr : rsvField v ≠ 0
  · rw [decode, if_pos hr]
    exact ⟨nofun, fun h => (hr h.1).elim⟩
  · rw [decode, if_neg hr, and_iff_right (not_not.mp hr)]
    cases instrOfOpcode (opField v) <;> simp

/-- The opcode map leaves out 0x0 and 0x8..0xF (R72). -/
theorem instrOfOpcode_eq_none {op : Nibble} : instrOfOpcode op = none ↔ op.toNat = 0 ∨ 8 ≤ op.toNat := by
  revert op
  decide

@[simp] theorem rsvField_encode (i : Instr) : rsvField (encode i) = 0 := by
  cases i <;> decide

@[simp] theorem opField_encode (i : Instr) : opField (encode i) = opcode i := by
  cases i <;> decide

/-- A command word as a number, from its two fields (R70). -/
theorem toNat_eq_fields (v : Word) : v.toNat = 16 * (rsvField v).toNat + (opField v).toNat := by
  have hop : (opField v).toNat < 16 := (opField v).isLt
  calc v.toNat = (rsvField v ++ opField v).toNat := by rw [rsvField_append_opField]
    _ = 16 * (rsvField v).toNat + (opField v).toNat := by
      rw [BitVec.toNat_append, ← Nat.shiftLeft_add_eq_or_of_lt hop, Nat.shiftLeft_eq]
      omega

/-- What is neither of the two rejections is a command (R75). -/
theorem exists_decode_eq_op {v : Word} :
    (∃ i, decode v = .op i) ↔ decode v ≠ .rsvBits ∧ decode v ≠ .illegalOp := by
  cases decode v <;> simp

/-- The command words are the numbers 1 to 7 (R72, R75). -/
theorem exists_decode_eq_op_iff_toNat {v : Word} :
    (∃ i, decode v = .op i) ↔ 1 ≤ v.toNat ∧ v.toNat ≤ 7 := by
  have hrsv : rsvField v = 0 ↔ (rsvField v).toNat = 0 := by simp [BitVec.toNat_eq]
  rw [exists_decode_eq_op, toNat_eq_fields v]
  simp only [ne_eq, decode_eq_rsvBits, decode_eq_illegalOp, instrOfOpcode_eq_none, hrsv]
  omega

/-- Settles O2: each outcome by its own characterisation, the commands as what the two rejections leave. -/
theorem decodeIsTotalOverAllWords : Obligations.DecodeIsTotalOverAllWords := by
  intro v
  refine ⟨decode_eq_rsvBits, ?_, ?_, exists_decode_eq_op_iff_toNat⟩
  · exact decode_eq_illegalOp.trans (and_congr_right fun _ => instrOfOpcode_eq_none)
  · intro i h
    obtain rfl := eq_encode_of_decode h
    exact ⟨rsvField_encode i, opField_encode i⟩

/-- Settles O1: seven words are the commands' own, and three are rejected by their fields. -/
theorem decodeOfWrittenWords : Obligations.DecodeOfWrittenWords := by
  refine ⟨decode_encode .enc64, decode_encode .enc128, decode_encode .encck, decode_encode .hashn,
    decode_encode .hashws, decode_encode .hashwc, decode_encode .macn, ?_, ?_, ?_⟩
  · exact decode_eq_illegalOp.mpr (by decide)
  · exact decode_eq_illegalOp.mpr (by decide)
  · exact decode_eq_rsvBits.mpr (by decide)

end Sys2Proof
end

section
/-! The labels of a host program, its branches, and a command word placed for the next step (30_encoding.md R71,
R77). -/

namespace Sys2Proof.Machine

theorem labelOf_eq_some {t : HostStmt} {l : Nat} : t.labelOf = some l ↔ t = .label l := by
  cases t <;> simp [HostStmt.labelOf]

/-- The label is where the look-up finds it (R77). -/
theorem getElem?_of_labelIndex {p : List HostStmt} {l k : Nat} (h : labelIndex p l = some k) :
    p[k]? = some (.label l) := by
  obtain ⟨hk, hlabel, -⟩ := List.findIdx?_eq_some_iff_getElem.mp h
  rw [List.getElem?_eq_getElem hk, labelOf_eq_some.mp (of_decide_eq_true hlabel)]

/-- No two statements of a program with unique labels define the same one (R77). -/
theorem label_index_unique {p : List HostStmt} {l j k : Nat} (hp : labelsUnique p = true)
    (hj : p[j]? = some (.label l)) (hk : p[k]? = some (.label l)) : j = k := by
  have hpair := List.pairwise_iff_getElem.mp (List.pairwise_filterMap.mp (of_decide_eq_true hp))
  obtain ⟨hj', hj⟩ := List.getElem?_eq_some_iff.mp hj
  obtain ⟨hk', hk⟩ := List.getElem?_eq_some_iff.mp hk
  have hjl := labelOf_eq_some.mpr hj
  have hkl := labelOf_eq_some.mpr hk
  rcases lt_trichotomy j k with hlt | heq | hgt
  · exact (hpair j k hj' hk' hlt l hjl l hkl rfl).elim
  · exact heq
  · exact (hpair k j hk' hj' hgt l hkl l hjl rfl).elim

/-- A label that a well-formed program branches to stands in it (R77). -/
theorem label_mem_of_targetOf {p : List HostStmt} {t : HostStmt} {l : Nat} (hp : targetsDefined p = true)
    (ht : t ∈ p) (hl : t.targetOf = some l) : HostStmt.label l ∈ p := by
  have hdef : l ∈ p.filterMap HostStmt.labelOf := by
    simpa using List.all_eq_true.mp hp l (List.mem_filterMap.mpr ⟨t, ht, hl⟩)
  obtain ⟨u, hu, hul⟩ := List.mem_filterMap.mp hdef
  exact labelOf_eq_some.mp hul ▸ hu

/-- Settles O30: the label stands in the program, the look-up finds it, and labels are unique. -/
theorem wellFormedProgramsFindTheirLabels : Obligations.WellFormedProgramsFindTheirLabels := by
  intro p t l hwf ht hl
  obtain ⟨hunique, hdefined⟩ := Bool.and_eq_true_iff.mp hwf
  have hmem := label_mem_of_targetOf hdefined ht hl
  obtain ⟨k, hk⟩ := Option.ne_none_iff_exists'.mp fun h => labelIndex_eq_none.mp h hmem
  have hlabel := getElem?_of_labelIndex hk
  exact ⟨k, hk, hlabel, fun j hj => label_index_unique hunique hj hlabel⟩

/-- A branch whose label is found goes there if it is taken, else on to the next statement (R77). -/
theorem hostBranch_of_labelIndex {a : HostAgent} {l k : Nat} (hk : labelIndex a.prog l = some k) (h : Nat)
    (taken : Prop) [Decidable taken] (s : State) :
    hostBranch h a (decide taken) l s = .next (s.withHost h (a.goto (if taken then k else a.pc + 1))) := by
  by_cases ht : taken
  · simp [hostBranch, ht, hk]
  · simp [hostBranch, ht, HostAgent.advance, HostAgent.goto]

/-- Settles O27: the statement is a branch whose label is found. -/
theorem hostBranches : Obligations.HostBranches := by
  intro s h a x l k m hn ha hk
  constructor
  · intro hf
    rw [step_of_fetch hn ha hf, hostStmt, hostBranch_of_labelIndex hk]
    rfl
  · intro hf
    rw [step_of_fetch hn ha hf, hostStmt, hostBranch_of_labelIndex hk]
    rfl

theorem request_of_decode {v : Word} {i : Instr} (h : decode v = .op i) (e : Engine) :
    e.request v = e.issue i := by
  simp [Engine.request, Engine.issue, h]

/-- A write to CMD of a word that decodes to a command runs that command (R58, R136). -/
theorem writeWindow_cmd_of_decode {v : Word} {i : Instr} (h : decode v = .op i) (s : State) :
    writeWindow (Reg.offset .cmd) v s = exec i s := by
  rw [writeWindow_eq, exec_eq_issue, State.mapEngine, State.mapEngine, busStore_of_cmd (regAt_offset .cmd),
    request_of_decode h]

/-- The host that `addHost` puts at the end, replaced when its turn is consumed. -/
theorem popTurn_addHost_withHost (s : State) (p : List HostStmt) (b : HostAgent) :
    (s.addHost p).popTurn.withHost s.hosts.length b = { s with hosts := s.hosts ++ [b] } := by
  simp [State.addHost, State.popTurn, State.withHost]

/-- Settles O25: the placed host's pending write is the CMD write of the word, and its program ends there. -/
theorem fetchWordIsRunNext : Obligations.FetchWordIsRunNext := by
  intro s nbits w i hw
  obtain ⟨-, hdecode⟩ := decodeTableWord_eq_some.mp hw
  let b := HostAgent.load [.wr .cmd (.imm (BitVec.ofNat 32 (w % 2 ^ nbits)))]
  have hlast : (s.withFetchWord nbits w).popTurn.hosts[s.hosts.length]? = some b := List.getElem?_concat_length
  refine ⟨b.advance, ?_, rfl⟩
  calc step (s.withFetchWord nbits w)
      = hostTurn s.hosts.length (s.withFetchWord nbits w).popTurn := step_of_host rfl
    _ = writeWindow (Reg.offset .cmd) (BitVec.ofNat 32 (w % 2 ^ nbits))
          ((s.withFetchWord nbits w).popTurn.withHost s.hosts.length b.advance) :=
        hostTurn_of_pendingWrite hlast rfl
    _ = exec i ((s.withFetchWord nbits w).popTurn.withHost s.hosts.length b.advance) :=
        writeWindow_cmd_of_decode hdecode _
    _ = exec i { s with hosts := s.hosts ++ [b.advance] } := by
        rw [State.withFetchWord, popTurn_addHost_withHost]

end Sys2Proof.Machine
end

section
/-! LDSTR (30_encoding.md R78): its writes, made in order, and the bytes that they leave in the message buffer. -/

namespace Sys2Proof.Machine

/-- Byte `j` of `LE32(s[a..a+3])` is `s[a+j]` (R12): `j` bytes lie below it. -/
theorem extractLsb'_le32 (s : List Byte) (a : Nat) {j : Nat} (hj : j < 4) :
    (le32 s a).extractLsb' (8 * j) 8 = byteAt s (a + j) := by
  have hlow (n : Nat) (x : BitVec n) (y : Byte) : (x ++ y).extractLsb' 0 8 = y :=
    BitVec.extractLsb'_append_eq_right
  have hskip (n : Nat) (x : BitVec n) (y : Byte) (k : Nat) :
      (x ++ y).extractLsb' (k + 8) 8 = x.extractLsb' k 8 :=
    BitVec.extractLsb'_append_eq_of_le (Nat.le_add_left 8 k)
  interval_cases j
  · exact hlow 24 _ _
  · exact (hskip 24 _ _ 0).trans (hlow 16 _ _)
  · exact (hskip 24 _ _ 8).trans ((hskip 16 _ _ 0).trans (hlow 8 _ _))
  · exact (hskip 24 _ _ 16).trans ((hskip 16 _ _ 8).trans ((hskip 8 _ _ 0).trans BitVec.extractLsb'_eq_self))

/-- A text followed by zeros reads 0 past its end. -/
theorem byteAt_append_zeros (s : List Byte) (n i : Nat) : byteAt (s ++ zeros n) i = s.getD i 0 := by
  rcases Nat.lt_or_ge i s.length with hi | hi
  · exact List.getD_append _ _ _ _ hi
  · rw [byteAt, List.getD_append_right _ _ _ _ hi, List.getD_eq_default s 0 hi]
    exact List.getElem?_getD_replicate_default_eq _ _ _

/-- The engine after the words `w i` have been stored in MSGi for the indexes of `is`, in order. -/
def Engine.storeMsg (w : Fin 16 → Word) (is : List (Fin 16)) (e : Engine) : Engine :=
  is.foldl (fun e i => e.write (.msg i) (w i)) e

/-- Stores in the message buffer change nothing but MSG (R30, R58). -/
theorem storeMsg_eq (w : Fin 16 → Word) (is : List (Fin 16)) (e : Engine) :
    e.storeMsg w is = { e with inputs := { e.inputs with msg := (e.storeMsg w is).inputs.msg } } := by
  induction is generalizing e with
  | nil => rfl
  | cons i is ih => exact ih (e.write (.msg i) (w i))

/-- A message word holds what was stored in it, and otherwise what it held before (R30). -/
theorem storeMsg_msg (w : Fin 16 → Word) (is : List (Fin 16)) (e : Engine) (k : Fin 16) :
    (e.storeMsg w is).inputs.msg[k] = if k ∈ is then w k else e.inputs.msg[k] := by
  induction is generalizing e with
  | nil => rfl
  | cons i is ih =>
    refine (ih (e.write (.msg i) (w i))).trans ?_
    by_cases hi : i = k
    · simp [Engine.write, hi]
    · simp [Engine.write, Fin.val_ne_of_ne hi, Ne.symm hi]

/-- Sixteen stores, one per register, leave exactly the stored words in the message buffer (R30). -/
theorem storeMsg_all (w : Fin 16 → Word) (e : Engine) :
    e.storeMsg w (List.finRange 16) = { e with inputs := { e.inputs with msg := Vector.ofFn w } } := by
  have hmsg : (e.storeMsg w (List.finRange 16)).inputs.msg = Vector.ofFn w := by
    refine Vector.ext fun k hk => ?_
    rw [Vector.getElem_ofFn]
    exact (storeMsg_msg w _ e ⟨k, hk⟩).trans (if_pos (List.mem_finRange _))
  rw [storeMsg_eq, hmsg]

/-- The word that LDSTR writes into MSGi (R78). -/
def ldstrWord (text : List Byte) (i : Fin 16) : Word := le32 (text ++ zeros (64 - text.length)) (4 * i.val)

theorem ldstr_eq_map (text : List Byte) :
    ldstr text = (List.finRange 16).map fun i => .wr (.msg i) (.imm (ldstrWord text i)) := rfl

/-- LDSTR's words hold the text's bytes, and zeros after them (R30, R78). -/
theorem msgByte_of_ldstrWord {S : Inputs} {text : List Byte} {i : Nat} (hi : i < 64) :
    msgByte { S with msg := Vector.ofFn (ldstrWord text) } i = text.getD i 0 := by
  have hw : i / 4 < 16 := by omega
  have hmsg : (Vector.ofFn (ldstrWord text))[i / 4]? = some (ldstrWord text ⟨i / 4, hw⟩) := by simp [hw]
  rw [msgByte, hmsg, Option.getD_some, ldstrWord, extractLsb'_le32 _ _ (Nat.mod_lt i (by omega)), Nat.div_add_mod,
    byteAt_append_zeros]

/-- Settles O31: the sixteen writes are the stores of LDSTR's words into the sixteen message registers. -/
theorem ldstrLoadsTheMessage : Obligations.LdstrLoadsTheMessage := by
  intro text e _
  refine ⟨(List.finRange 16).map fun i => (.msg i, ldstrWord text i), ?_, by simp, ?_⟩
  · rw [ldstr_eq_map, List.map_map]
    rfl
  · have hfold : ((List.finRange 16).map fun i => (Reg.msg i, ldstrWord text i)).foldl
        (fun e p => e.write p.1 p.2) e = e.storeMsg (ldstrWord text) (List.finRange 16) := List.foldl_map
    rw [hfold, storeMsg_all]
    exact ⟨fun i hi => msgByte_of_ldstrWord hi, rfl, rfl, rfl, rfl, rfl, rfl, rfl, rfl⟩

end Sys2Proof.Machine
end

section
/-! What each command reads of its snapshot (30_encoding.md R73). -/

namespace Sys2Proof.Machine

section
variable {S T : Inputs}

theorem scanLength_congr {fuel L : Nat} (h : ∀ i, i < L + fuel → msgByte S i = msgByte T i) :
    scanLength S fuel L = scanLength T fuel L := by
  induction fuel generalizing L with
  | zero => rfl
  | succ fuel ih =>
    have htail : scanLength S fuel (L + 1) = scanLength T fuel (L + 1) := ih fun i hi => h i (by omega)
    rw [scanLength, scanLength, h L (by omega), htail]

/-- `EffLen` reads the message below its cap (R105). -/
theorem effLen_congr {cap : Nat} (h : ∀ i, i < cap → msgByte S i = msgByte T i) : effLen S cap = effLen T cap :=
  scanLength_congr fun i hi => h i (by omega)

theorem msgBytes_congr {L : Nat} (h : ∀ i, i < L → msgByte S i = msgByte T i) : msgBytes S L = msgBytes T L :=
  List.map_congr_left fun i hi => h i (List.mem_range.mp hi)

theorem msgByte_congr (h : S.msg = T.msg) (i : Nat) : msgByte S i = msgByte T i := by
  rw [msgByte, msgByte, h]

/-- Padding reads the message alone (R106). -/
theorem padBlocks_congr (h : S.msg = T.msg) (B : Nat) : padBlocks S B = padBlocks T B := by
  have hlen : effLen S Config.maxMessage = effLen T Config.maxMessage :=
    effLen_congr fun i _ => msgByte_congr h i
  have hbytes : msgBytes S (effLen T Config.maxMessage) = msgBytes T (effLen T Config.maxMessage) :=
    msgBytes_congr fun i _ => msgByte_congr h i
  simp only [padBlocks, hlen, hbytes]

theorem seed64_congr (h : S.seed = T.seed) : seed64 S = seed64 T := by
  rw [seed64, seed64, h]

theorem keyQuad32_congr (h0 : S.key[0] = T.key[0]) (h1 : S.key[1] = T.key[1]) (h2 : S.key[2] = T.key[2])
    (h3 : S.key[3] = T.key[3]) : keyQuad32 S = keyQuad32 T := by
  rw [keyQuad32, keyQuad32, h0, h1, h2, h3]

/-- HASHWS under any constants reads the message and the seed (R115). -/
theorem hashWS_congr (hm : S.msg = T.msg) (hs : S.seed = T.seed) (b d : Word64) : hashWS b d S = hashWS b d T := by
  rw [hashWS, hashWS, padBlocks_congr hm, seed64_congr hs]

/-- HASHWC under any constants reads the message and the seed (R118). -/
theorem hashWC_congr (hm : S.msg = T.msg) (hs : S.seed = T.seed) (b d : Word64) : hashWC b d S = hashWC b d T := by
  rw [hashWC, hashWC, padBlocks_congr hm, seed64_congr hs]

/-- MACN reads the message bytes 0..14 and the seed (R125, R129). -/
theorem resultMacn_congr (hm : ∀ i, i < Config.macCap → msgByte S i = msgByte T i) (hs : S.seed = T.seed) :
    resultMacn S = resultMacn T := by
  have hlen : effLen S Config.macCap = effLen T Config.macCap := effLen_congr hm
  have hbytes : msgBytes S (effLen T Config.macCap) = msgBytes T (effLen T Config.macCap) :=
    msgBytes_congr fun i hi => hm i (Nat.lt_of_lt_of_le hi (effLen_le T _))
  rw [resultMacn, resultMacn, hlen, macBuffer, macBuffer, hbytes, seed64_congr hs]

end

/-- Settles O52: each command's result is a function of what it reads of the snapshot. -/
theorem resultsDependOnListedOperands : Obligations.ResultsDependOnListedOperands := by
  intro S T
  refine ⟨?enc64, ?enc128, ?encck, ?hashn, ?hashws, ?hashwc, ?macn⟩
  case enc64 =>
    intro hd0 hd1 hk0 hk1 hk2 hk3
    rw [result, result, resultEnc64, resultEnc64, dataBlock64, dataBlock64, hd0, hd1, keyQuad32_congr hk0 hk1 hk2 hk3]
  case enc128 =>
    intro hd hk
    rw [result, result, resultEnc128, resultEnc128, dataPair, dataPair, hd, keyQuad64, keyQuad64, hk]
  case encck =>
    intro hd hk0 hk1 hk2 hk3
    rw [result, result, resultEncck, resultEncck, dataQuad, dataQuad, hd, keyQuad32_congr hk0 hk1 hk2 hk3]
  case hashn =>
    intro hm hs0
    rw [result, result, resultHashn, resultHashn, padBlocks_congr hm, narrowIv, narrowIv, hs0]
  case hashws => exact fun hm hs => hashWS_congr hm hs _ _
  case hashwc => exact fun hm hs => hashWC_congr hm hs _ _
  case macn => exact fun hm hs => resultMacn_congr hm hs

end Sys2Proof.Machine
end

section
/-! The ciphers a round at a time, with the library's rotations (40_ciphers.md R85, R88, R91, R92). -/

namespace Sys2Proof.Machine

/-- The round of SPECK (R85, R88) as an equation per word of the state. -/
theorem speckRound_words {w : Nat} (hw : 8 < w) (i : Nat) (t : SpeckState w) :
    (speckRound i t).x0 = (t.x0.rotateRight 8 + t.x1) ^^^ t.k0 ∧
    (speckRound i t).x1 = t.x1.rotateLeft 3 ^^^ (speckRound i t).x0 ∧
    (speckRound i t).k3 = (t.k1.rotateRight 8 + t.k0) ^^^ BitVec.ofNat w i ∧
    (speckRound i t).k0 = t.k0.rotateLeft 3 ^^^ (speckRound i t).k3 ∧
    (speckRound i t).k1 = t.k2 ∧ (speckRound i t).k2 = t.k3 := by
  have hr (a : BitVec w) : rotr a 8 = a.rotateRight 8 := rotr_eq_rotateRight a (by omega) hw
  have hl (a : BitVec w) : rotl a 3 = a.rotateLeft 3 := rotl_eq_rotateLeft a (by omega)
  simp only [speckRound, hr, hl, and_self]

/-- On 64-bit words a rotation left by 3 is one right by 61 (R89). -/
theorem rotateLeft_three_eq_rotateRight (a : Word64) : a.rotateLeft 3 = a.rotateRight 61 :=
  calc a.rotateLeft 3 = rotl a 3 := (rotl_eq_rotateLeft a (by decide)).symm
    _ = rotr a 61 := rfl
    _ = a.rotateRight 61 := rotr_eq_rotateRight a (by decide) (by decide)

/-- Round `i` follows the rounds before it. -/
theorem speckRounds_succ_zero {w : Nat} (i : Nat) (t : SpeckState w) :
    speckRounds (i + 1) 0 t = speckRound i (speckRounds i 0 t) := by
  rw [speckRounds_succ, Nat.zero_add]

/-- Settles O46: the sequence is the start after `i` rounds. -/
theorem speck64RoundByRound : Obligations.Speck64RoundByRound := by
  intro p k
  refine ⟨fun i => speckRounds i 0 (speckStart (lo64 p) (hi64 p) k), rfl, fun i _ => ?_, rfl⟩
  simp only [speckRounds_succ_zero]
  exact speckRound_words (by decide) i _

/-- Settles O47: the sequence is the start after `i` rounds. -/
theorem speck128RoundByRound : Obligations.Speck128RoundByRound := by
  intro p k
  refine ⟨fun i => speckRounds i 0 (speckStart p.h0 p.h1 k), rfl, fun i _ => ?_, rfl, rfl⟩
  simp only [speckRounds_succ_zero]
  obtain ⟨hx0, hx1, hkeys⟩ := speckRound_words (by decide) i (speckRounds i 0 (speckStart p.h0 p.h1 k))
  exact ⟨hx0, hx1, rotateLeft_three_eq_rotateRight _, hkeys⟩

/-- `ChaskeyRound` (R92), its four lines as one. -/
theorem chaskeyRound_eq (v : Quad 32) :
    chaskeyRound v =
      (let v0 := v.q0 + v.q1
       let v1 := v.q1.rotateLeft 5 ^^^ v0
       let v2 := v.q2 + v.q3
       let v3 := v.q3.rotateLeft 8 ^^^ v2
       let w0 := v0.rotateLeft 16 + v3
       let w2 := v2 + v1
       { q0 := w0, q1 := v1.rotateLeft 7 ^^^ w2, q2 := w2.rotateLeft 16, q3 := v3.rotateLeft 13 ^^^ w0 }) := by
  have hl (a : Word) (r : Nat) (hr : r < 32) : rotl a r = a.rotateLeft r := rotl_eq_rotateLeft a hr
  simp only [chaskeyRound, chaskeyLine1, chaskeyLine2, chaskeyLine3, chaskeyLine4, hl _ 5 (by decide),
    hl _ 7 (by decide), hl _ 8 (by decide), hl _ 13 (by decide), hl _ 16 (by decide)]

/-- Settles O48: the sequence is the whitened plaintext after `i` rounds. -/
theorem chaskeyRoundByRound : Obligations.ChaskeyRoundByRound := by
  intro p k
  refine ⟨fun i => chaskeyRounds i (p.xor k), rfl, fun i _ => ?_, rfl⟩
  exact (chaskeyRounds_succ i (p.xor k)).trans (chaskeyRound_eq _)

end Sys2Proof.Machine
end

section
/-! Every cipher is a permutation of its finite set of blocks under each key, since each of its steps is injective
(40_ciphers.md R87, R90, R93). -/

namespace Sys2Proof.Machine

open Function (Injective LeftInverse)

/-- A rotation right undoes one left by the same count: bit `i` went to `i + r`, or to `i - (w - r)` past the end. -/
theorem rotateRight_rotateLeft {w : Nat} (a : BitVec w) (r : Nat) : (a.rotateLeft r).rotateRight r = a := by
  ext i hi
  have hr : r % w < w := Nat.mod_lt r (Nat.zero_lt_of_lt hi)
  rw [BitVec.getElem_rotateRight]
  by_cases hlow : i < w - r % w
  · have hback : r % w + i - r % w = i := by omega
    simp [hlow, BitVec.getElem_rotateLeft, hback]
  · have hwrap : i - (w - r % w) < r % w := by omega
    have hback : w - r % w + (i - (w - r % w)) = i := by omega
    simp [hlow, BitVec.getElem_rotateLeft, hwrap, hback]

theorem rotl_injective {w r : Nat} (hr : r < w) : Injective fun a : BitVec w => rotl a r := by
  have hundo : LeftInverse (fun b : BitVec w => b.rotateRight r) fun a => rotl a r := fun a => by
    simp only [rotl_eq_rotateLeft a hr, rotateRight_rotateLeft]
  exact hundo.injective

theorem rotr_injective {w r : Nat} (h0 : 0 < r) (hr : r < w) : Injective fun a : BitVec w => rotr a r :=
  rotl_injective (by omega)

/-- The step that both ciphers are made of can be undone: of `a + b`, and `b` rotated and masked, `b` comes back first
and then `a` (R87). -/
theorem add_rotl_xor_inj {w r : Nat} (hr : r < w) {a b c d m n : BitVec w} (hsum : a + b = c + d) (hmask : m = n)
    (hmix : rotl b r ^^^ m = rotl d r ^^^ n) : a = c ∧ b = d := by
  subst hmask
  obtain rfl : b = d := rotl_injective hr ((BitVec.xor_left_inj m).mp hmix)
  exact ⟨(BitVec.add_left_inj b).mp hsum, rfl⟩

section Speck
variable {w : Nat}

/-- The block words of a state of SPECK. -/
def SpeckState.block (t : SpeckState w) : BitVec w × BitVec w := (t.x0, t.x1)

/-- The state with other block words; the key-schedule words stay. -/
def SpeckState.withBlock (t : SpeckState w) (x : BitVec w × BitVec w) : SpeckState w := { t with x0 := x.1, x1 := x.2 }

/-- The key schedule does not read the block (R85, R88). -/
theorem speckRound_withBlock (i : Nat) (t : SpeckState w) (x : BitVec w × BitVec w) :
    speckRound i (t.withBlock x) = (speckRound i t).withBlock (speckRound i (t.withBlock x)).block := rfl

/-- Under fixed key-schedule words a round of SPECK can be undone (R87). -/
theorem speckRound_block_injective (hw : 8 < w) (i : Nat) (t : SpeckState w) :
    Injective fun x => (speckRound i (t.withBlock x)).block := by
  rintro ⟨x0, x1⟩ ⟨y0, y1⟩ h
  obtain ⟨h0, h1⟩ := Prod.mk.inj h
  have hsum : rotr x0 8 + x1 = rotr y0 8 + y1 := (BitVec.xor_left_inj t.k0).mp h0
  obtain ⟨hrot, rfl⟩ := add_rotl_xor_inj (show 3 < w by omega) hsum h0 h1
  obtain rfl : x0 = y0 := rotr_injective (by omega) hw hrot
  rfl

theorem speckRounds_block_injective (hw : 8 < w) (n i : Nat) (t : SpeckState w) :
    Injective fun x => (speckRounds n i (t.withBlock x)).block := by
  induction n generalizing i t with
  | zero => exact fun x y h => h
  | succ n ih => exact (ih (i + 1) (speckRound i t)).comp (speckRound_block_injective hw i t)

/-- Different blocks are still different after any number of rounds under one key. -/
theorem speckRounds_start_injective (hw : 8 < w) (n : Nat) (k : Quad w) :
    Injective fun x : BitVec w × BitVec w => (speckRounds n 0 (speckStart x.1 x.2 k)).block :=
  speckRounds_block_injective hw n 0 (speckStart 0 0 k)

end Speck

/-- A 64-bit block and its two words, low and high (R85). -/
def word64Equiv : Word64 ≃ Word × Word where
  toFun v := (lo64 v, hi64 v)
  invFun x := pair64 x.2 x.1
  left_inv v := pair64_hi_lo v
  right_inv _ := Prod.ext BitVec.extractLsb'_append_eq_right BitVec.extractLsb'_append_eq_left

/-- A 128-bit block and its two words (R88). -/
def pairEquiv : Pair ≃ Word64 × Word64 where
  toFun p := (p.h0, p.h1)
  invFun x := { h0 := x.1, h1 := x.2 }

theorem word64Equiv_symm_block (t : SpeckState 32) : word64Equiv.symm t.block = pair64 t.x1 t.x0 := rfl

theorem pairEquiv_symm_block (t : SpeckState 64) : pairEquiv.symm t.block = { h0 := t.x0, h1 := t.x1 } := rfl

theorem speck64_injective (k : Quad 32) : Injective fun p => speck64 p k := by
  intro p q h
  simp only [speck64, ← word64Equiv_symm_block] at h
  have hblocks : word64Equiv p = word64Equiv q :=
    speckRounds_start_injective (by decide) Config.speck64Rounds k (word64Equiv.symm.injective h)
  exact word64Equiv.injective hblocks

theorem speck128_injective (k : Quad 64) : Injective fun p => speck128 p k := by
  intro p q h
  simp only [speck128, ← pairEquiv_symm_block] at h
  have hblocks : pairEquiv p = pairEquiv q :=
    speckRounds_start_injective (by decide) Config.speck128Rounds k (pairEquiv.symm.injective h)
  exact pairEquiv.injective hblocks

/-- Settles O49: both are injective on a finite set of blocks. -/
theorem speckIsAPermutation : Obligations.SpeckIsAPermutation := by
  have hfinite : Finite Pair := Finite.of_equiv _ pairEquiv.symm
  exact ⟨fun k => Finite.injective_iff_bijective.mp (speck64_injective k),
    fun k => Finite.injective_iff_bijective.mp (speck128_injective k)⟩

theorem chaskeyLine1_injective : Injective chaskeyLine1 := by
  rintro ⟨a0, a1, a2, a3⟩ ⟨b0, b1, b2, b3⟩ h
  obtain ⟨h0, h1, rfl, rfl⟩ := Quad.mk.inj h
  have hsum : a0 + a1 = b0 + b1 := rotl_injective (by decide) h0
  obtain ⟨rfl, rfl⟩ := add_rotl_xor_inj (by decide) hsum hsum h1
  rfl

theorem chaskeyLine2_injective : Injective chaskeyLine2 := by
  rintro ⟨a0, a1, a2, a3⟩ ⟨b0, b1, b2, b3⟩ h
  obtain ⟨rfl, rfl, hsum, h3⟩ := Quad.mk.inj h
  obtain ⟨rfl, rfl⟩ := add_rotl_xor_inj (by decide) hsum hsum h3
  rfl

theorem chaskeyLine3_injective : Injective chaskeyLine3 := by
  rintro ⟨a0, a1, a2, a3⟩ ⟨b0, b1, b2, b3⟩ h
  obtain ⟨hsum, rfl, rfl, h3⟩ := Quad.mk.inj h
  obtain ⟨rfl, rfl⟩ := add_rotl_xor_inj (by decide) hsum hsum h3
  rfl

theorem chaskeyLine4_injective : Injective chaskeyLine4 := by
  rintro ⟨a0, a1, a2, a3⟩ ⟨b0, b1, b2, b3⟩ h
  obtain ⟨rfl, h1, h2, rfl⟩ := Quad.mk.inj h
  have hsum : a2 + a1 = b2 + b1 := rotl_injective (by decide) h2
  obtain ⟨rfl, rfl⟩ := add_rotl_xor_inj (by decide) hsum hsum h1
  rfl

theorem chaskeyRound_injective : Injective chaskeyRound :=
  chaskeyLine4_injective.comp (chaskeyLine3_injective.comp (chaskeyLine2_injective.comp chaskeyLine1_injective))

theorem chaskeyRounds_injective (n : Nat) : Injective (chaskeyRounds n) := by
  induction n with
  | zero => exact fun u v h => h
  | succ n ih => exact ih.comp chaskeyRound_injective

/-- XOR with `k` undoes itself. -/
theorem Quad.xor_xor_cancel {w : Nat} (v k : Quad w) : (v.xor k).xor k = v := by
  simp [Quad.xor]

theorem Quad.xor_injective {w : Nat} (k : Quad w) : Injective fun v : Quad w => v.xor k :=
  LeftInverse.injective (g := fun v => v.xor k) fun v => v.xor_xor_cancel k

theorem chaskey12_injective (k : Quad 32) : Injective fun p => chaskey12 p k :=
  ((Quad.xor_injective k).comp (chaskeyRounds_injective Config.chaskeyRounds)).comp (Quad.xor_injective k)

theorem finite_quad (w : Nat) : Finite (Quad w) := by
  refine Finite.of_injective (fun v : Quad w => (v.q0, v.q1, v.q2, v.q3)) ?_
  rintro ⟨a0, a1, a2, a3⟩ ⟨b0, b1, b2, b3⟩ h
  simpa using h

/-- Settles O50: whitening and the rounds are injective on a finite set of blocks. -/
theorem chaskeyIsAPermutation : Obligations.ChaskeyIsAPermutation := by
  have hfinite : Finite (Quad 32) := finite_quad 32
  exact fun k => Finite.injective_iff_bijective.mp (chaskey12_injective k)

end Sys2Proof.Machine
end

section
/-! Chaskey's whitening (40_ciphers.md R91, R93, R101): the rounds see plaintext and key only as their XOR. -/

namespace Sys2Proof.Machine

/-- Four zero words. -/
def Quad.zero : Quad 32 := { q0 := 0, q1 := 0, q2 := 0, q3 := 0 }

theorem Quad.xor_self (k : Quad 32) : k.xor k = Quad.zero := by
  simp [Quad.xor, Quad.zero]

theorem Quad.zero_xor (k : Quad 32) : Quad.zero.xor k = k := by
  simp [Quad.xor, Quad.zero]

/-- "ChaskeyRound(0, 0, 0, 0) = (0, 0, 0, 0)" (R93), for any number of rounds. -/
theorem chaskeyRounds_zero (n : Nat) : chaskeyRounds n Quad.zero = Quad.zero := by
  have hround : chaskeyRound Quad.zero = Quad.zero := by decide
  induction n with
  | zero => rfl
  | succ n ih => rw [chaskeyRounds, hround, ih]

theorem chaskey12_self (k : Quad 32) : chaskey12 k k = k := by
  rw [chaskey12, Quad.xor_self, chaskeyRounds_zero, Quad.zero_xor]

/-- A bit flipped in the first plaintext word and the same bit flipped in the first key word give the rounds the same
block (R101). -/
theorem Quad.xor_flip_comm {w : Nat} (p k : Quad w) (b : BitVec w) :
    Quad.xor { p with q0 := p.q0 ^^^ b } k = p.xor { k with q0 := k.q0 ^^^ b } := by
  simp only [Quad.xor, BitVec.xor_assoc, BitVec.xor_comm b]

/-- Settles O51: the two runs differ in the final whitening alone. -/
theorem chaskeyWhitening : Obligations.ChaskeyWhitening := by
  refine ⟨chaskey12_self, fun p k => ?_⟩
  simp only [chaskey12, Quad.xor_flip_comm]
  generalize chaskeyRounds Config.chaskeyRounds _ = v
  have hflip : (v.q0 ^^^ k.q0) ^^^ (v.q0 ^^^ (k.q0 ^^^ 1)) = 1 := by
    rw [← BitVec.xor_assoc v.q0, ← BitVec.xor_assoc, BitVec.xor_self, BitVec.zero_xor]
  exact ⟨hflip, rfl, rfl, rfl⟩

end Sys2Proof.Machine
end

section
/-! The raw cipher commands from the CMD write to the result (40_ciphers.md R94, R97, R100; 60_exceptions.md R136
to R139). -/

namespace Sys2Proof.Machine

theorem exec_of_idle {s : State} (h : s.engine.status.busy = false) (i : Instr) :
    exec i s = .next (s.withEngine (s.engine.accept i)) := by
  rw [exec_eq_issue, State.mapEngine, issue_of_idle h]

/-- The completion of a command that has just been accepted commits the result of the inputs it was accepted with
(R137, R139). -/
theorem complete_accept (e : Engine) (i : Instr) :
    (e.accept i).complete = (e.accept i).commit (result i e.inputs) :=
  complete_of_some (accept_inflight e i)

/-- Settles O15: ENC64 is accepted, and its completion commits `resultEnc64`. -/
theorem enc64RunsToItsResult : Obligations.Enc64RunsToItsResult := by
  intro s hidle
  exact ⟨_, exec_of_idle hidle .enc64, rfl, rfl, complete_accept s.engine .enc64⟩

/-- Settles O16: ENC128 is accepted, and its completion commits `resultEnc128`. -/
theorem enc128RunsToItsResult : Obligations.Enc128RunsToItsResult := by
  intro s hidle
  exact ⟨_, exec_of_idle hidle .enc128, rfl, rfl, complete_accept s.engine .enc128⟩

/-- Settles O17: ENCCK is accepted, and its completion commits `resultEncck`. -/
theorem encckRunsToItsResult : Obligations.EncckRunsToItsResult := by
  intro s hidle
  exact ⟨_, exec_of_idle hidle .encck, rfl, rfl, complete_accept s.engine .encck⟩

end Sys2Proof.Machine
end

section
/-! The effective length is the first zero byte's index (41_hash.md R105), so a hash reads no byte past it (R121). -/

namespace Sys2Proof.Machine

/-- The scan passes no zero byte. -/
theorem msgByte_ne_zero_of_lt_scanLength {S : Inputs} {fuel k i : Nat} (hk : k ≤ i) (hi : i < scanLength S fuel k) :
    msgByte S i ≠ 0 := by
  induction fuel generalizing k with
  | zero => exact absurd hi (by simp only [scanLength]; omega)
  | succ fuel ih =>
    rw [scanLength] at hi
    split at hi
    · omega
    next hne =>
      obtain rfl | hlt := Nat.eq_or_lt_of_le hk
      · exact hne
      · exact ih hlt hi

/-- The scan stops early only at a zero byte. -/
theorem msgByte_scanLength {S : Inputs} {fuel k : Nat} (h : scanLength S fuel k < k + fuel) :
    msgByte S (scanLength S fuel k) = 0 := by
  induction fuel generalizing k with
  | zero => exact absurd h (by simp [scanLength])
  | succ fuel ih =>
    rw [scanLength] at h ⊢
    split
    next hzero => exact hzero
    next hne =>
      rw [if_neg hne] at h
      exact ih (by omega)

theorem msgByte_ne_zero_of_lt_effLen {S : Inputs} {cap i : Nat} (h : i < effLen S cap) : msgByte S i ≠ 0 :=
  msgByte_ne_zero_of_lt_scanLength (Nat.zero_le i) h

theorem msgByte_effLen {S : Inputs} {cap : Nat} (h : effLen S cap < cap) : msgByte S (effLen S cap) = 0 :=
  msgByte_scanLength (by rwa [Nat.zero_add])

theorem effLen_eq_iff (S : Inputs) (cap L : Nat) :
    effLen S cap = L ↔ L ≤ cap ∧ (∀ i, i < L → msgByte S i ≠ 0) ∧ (L < cap → msgByte S L = 0) := by
  constructor
  · rintro rfl
    exact ⟨effLen_le S cap, fun i hi => msgByte_ne_zero_of_lt_effLen hi, msgByte_effLen⟩
  · rintro ⟨hcap, hne, hzero⟩
    have hle : effLen S cap ≤ cap := effLen_le S cap
    obtain hlt | heq | hgt := Nat.lt_trichotomy (effLen S cap) L
    · exact absurd (msgByte_effLen (by omega)) (hne _ hlt)
    · exact heq
    · exact absurd (hzero (by omega)) (msgByte_ne_zero_of_lt_effLen hgt)

/-- Settles O53: no other length has no zero byte below it and one at it, or the cap. -/
theorem effLenIsFirstZeroByte : Obligations.EffLenIsFirstZeroByte := effLen_eq_iff

/-- The message that is hashed: the bytes below the effective length (R105, R106). -/
def hashedBytes (S : Inputs) : List Byte := msgBytes S (effLen S Config.maxMessage)

@[simp] theorem length_hashedBytes (S : Inputs) : (hashedBytes S).length = effLen S Config.maxMessage :=
  length_msgBytes S _

theorem length_hashedBytes_le (S : Inputs) : (hashedBytes S).length ≤ 64 :=
  (length_hashedBytes S).trans_le (effLen_le S Config.maxMessage)

section
variable {S T : Inputs}

/-- A message that agrees below `L` and ends there too, at a zero byte or at 64 bytes, is the same message (R121). -/
theorem hashedBytes_eq_of_agree (hagree : ∀ i, i < effLen S Config.maxMessage → msgByte T i = msgByte S i)
    (hend : msgByte T (effLen S Config.maxMessage) = 0 ∨ effLen S Config.maxMessage = Config.maxMessage) :
    hashedBytes T = hashedBytes S := by
  have hlen : effLen T Config.maxMessage = effLen S Config.maxMessage := by
    refine (effLen_eq_iff T _ _).mpr ⟨effLen_le S _, fun i hi => ?_, fun hlt => hend.resolve_right (by omega)⟩
    rw [hagree i hi]
    exact msgByte_ne_zero_of_lt_effLen hi
  rw [hashedBytes, hashedBytes, hlen, msgBytes_congr hagree]

/-- Padding reads the hashed bytes alone (R106). -/
theorem padBlocks_eq_of_hashedBytes (h : hashedBytes T = hashedBytes S) (B : Nat) : padBlocks T B = padBlocks S B := by
  have hlen : effLen T Config.maxMessage = effLen S Config.maxMessage := by
    simpa only [length_hashedBytes] using congrArg List.length h
  rw [hashedBytes, hashedBytes, hlen] at h
  simp only [padBlocks, hlen, h]

end

/-- Settles O57: all three hashes read the seed and the padded blocks of the hashed bytes. -/
theorem hashTruncationEquivalence : Obligations.HashTruncationEquivalence := by
  intro S T hseed hagree hend
  have hpad : ∀ B, padBlocks T B = padBlocks S B :=
    padBlocks_eq_of_hashedBytes (hashedBytes_eq_of_agree hagree hend)
  refine ⟨?hashn, ?hashws, ?hashwc⟩
  case hashn => rw [result, result, resultHashn, resultHashn, hpad, narrowIv, narrowIv, hseed]
  case hashws => rw [result, result, resultHashws, resultHashws, hashWS, hashWS, hpad, seed64_congr hseed]
  case hashwc => rw [result, result, resultHashwc, resultHashwc, hashWC, hashWC, hpad, seed64_congr hseed]

end Sys2Proof.Machine
end

section
/-! The padded blocks as one list: the full blocks of the message, then the one or two blocks that hold the
terminator and the length field (41_hash.md R106, R108, R109). -/

namespace Sys2Proof.Machine

/-- The first `q` blocks of `B` bytes of a message (R106). -/
def fullBlocks (B : Nat) (s : List Byte) (q : Nat) : List (List Byte) :=
  (List.range q).map fun j => slice s (j * B) B

/-- What padding appends to the full blocks of the message `s` (R106). -/
def lastBlocks (B : Nat) (s : List Byte) : List (List Byte) :=
  if s.length % B ≥ B - 4 then [terminated B s (s.length % B), withLength B s.length (zeros B)]
  else [withLength B s.length (terminated B s (s.length % B))]

theorem padBlocks_blocks (S : Inputs) (B : Nat) :
    (padBlocks S B).blocks =
      fullBlocks B (hashedBytes S) ((hashedBytes S).length / B) ++ lastBlocks B (hashedBytes S) := by
  simp only [padBlocks, lastBlocks, fullBlocks, length_hashedBytes]
  split
  · exact List.append_assoc _ [_] [_]
  · rfl

theorem fullBlocks_succ (B : Nat) (s : List Byte) (q : Nat) :
    fullBlocks B s (q + 1) = fullBlocks B s q ++ [slice s (q * B) B] := by
  simp [fullBlocks, List.range_succ]

theorem flatten_fullBlocks (B : Nat) (s : List Byte) (q : Nat) : (fullBlocks B s q).flatten = s.take (q * B) := by
  induction q with
  | zero => simp [fullBlocks]
  | succ q ih => simp [fullBlocks_succ, ih, Nat.succ_mul, List.take_add, slice]

section
variable {B : Nat} {s : List Byte}

theorem length_of_mem_fullBlocks {b : List Byte} (hb : b ∈ fullBlocks B s (s.length / B)) : b.length = B := by
  obtain ⟨j, hj, rfl⟩ := List.mem_map.mp hb
  have hfit : (j + 1) * B ≤ s.length :=
    (Nat.mul_le_mul_right B (List.mem_range.mp hj)).trans (Nat.div_mul_le_self _ _)
  exact length_slice (by rwa [← Nat.succ_mul])

theorem length_of_mem_lastBlocks (hB : 4 ≤ B) {b : List Byte} (hb : b ∈ lastBlocks B s) : b.length = B := by
  have hterm : (terminated B s (s.length % B)).length = B :=
    length_terminated (Nat.mod_lt _ (by omega)).le (Nat.mod_le _ _)
  rw [lastBlocks] at hb
  split at hb
  · obtain rfl | rfl : b = _ ∨ b = _ := by simpa using hb
    · exact hterm
    · exact length_withLength hB (length_zeros B)
  · obtain rfl := List.mem_singleton.mp hb
    exact length_withLength hB hterm

/-- The terminated block holds the bytes past the full blocks (R106). -/
theorem terminated_rest (hB : 4 ≤ B) :
    terminated B s (s.length % B) = s.drop (s.length / B * B) ++ 0x80 :: zeros (B - s.length % B - 1) := by
  rw [terminated_eq (Nat.mod_lt _ (by omega)) (Nat.mod_le _ _), Nat.div_mul_self_eq_mod_sub_self]

theorem zeros_add (m n : Nat) : zeros (m + n) = zeros m ++ zeros n := List.replicate_add m n 0

theorem withLength_zeros (L : Nat) : withLength B L (zeros B) = zeros (B - 4) ++ lengthField L := by
  simp [withLength, zeros]

/-- The length field overlaps neither the message nor the terminator when both end below it (R108). -/
theorem withLength_terminated (hB : 4 ≤ B) (hfit : s.length % B < B - 4) :
    withLength B s.length (terminated B s (s.length % B)) =
      s.drop (s.length / B * B) ++ 0x80 :: zeros (B - 5 - s.length % B) ++ lengthField s.length := by
  have hrest : (s.drop (s.length / B * B)).length = s.length % B := by
    rw [List.length_drop, Nat.div_mul_self_eq_mod_sub_self, Nat.sub_sub_self (Nat.mod_le _ _)]
  obtain ⟨k, hk⟩ : ∃ k, B - 4 - s.length % B = k + 1 := ⟨B - 5 - s.length % B, by omega⟩
  have hmin : min k (B - s.length % B - 1) = B - 5 - s.length % B := by omega
  rw [withLength, terminated_rest hB, List.take_append, List.take_of_length_le (by omega), hrest, hk,
    List.take_succ_cons, zeros, List.take_replicate, hmin, zeros]

theorem flatten_lastBlocks (hB : 4 ≤ B) :
    (lastBlocks B s).flatten =
      s.drop (s.length / B * B) ++ 0x80 :: zeros (B * (s.length / B + (lastBlocks B s).length) - s.length - 5)
        ++ lengthField s.length := by
  have hlen := Nat.div_add_mod s.length B
  have hmod : s.length % B < B := Nat.mod_lt _ (by omega)
  rw [Nat.mul_add, lastBlocks]
  split
  next htwo =>
    have hzeros : B * (s.length / B) + B * 2 - s.length - 5 = (B - s.length % B - 1) + (B - 4) := by omega
    simp [terminated_rest hB, withLength_zeros, hzeros, zeros_add]
  next hone =>
    have hzeros : B * (s.length / B) + B - s.length - 5 = B - 5 - s.length % B := by omega
    simp [withLength_terminated hB (Nat.lt_of_not_le hone), hzeros]

end

/-- Settles O54: the full blocks hold the message up to a multiple of `B`, the last blocks the rest. -/
theorem padBlocksLayout : Obligations.PadBlocksLayout := by
  intro S B hB
  have hfour : 4 ≤ B := by omega
  have hlen : (padBlocks S B).len = (hashedBytes S).length := by rw [padBlocks_len, length_hashedBytes]
  refine ⟨padBlocks_len S B, hlen.trans_le (length_hashedBytes_le S), fun b hb => ?_, ?_⟩
  · rw [padBlocks_blocks, List.mem_append] at hb
    exact hb.elim length_of_mem_fullBlocks (length_of_mem_lastBlocks hfour)
  · have hcount : (padBlocks S B).blocks.length =
        (hashedBytes S).length / B + (lastBlocks B (hashedBytes S)).length := by
      simp [padBlocks_blocks, fullBlocks]
    rw [hcount, padBlocks_blocks, List.flatten_append, flatten_fullBlocks, flatten_lastBlocks hfour,
      ← List.append_assoc, ← List.append_assoc, List.take_append_drop, hlen]
    simp [hashedBytes, msgBytes, lengthField, bytesLE32, zeros]

/-- Settles O55: R109's formula, and its bounds from `L ≤ 64`. -/
theorem padBlocksCount : Obligations.PadBlocksCount := by
  intro S B hB
  have hlen : (padBlocks S B).len = effLen S Config.maxMessage := padBlocks_len S B
  have hle : effLen S Config.maxMessage ≤ 64 := effLen_le S Config.maxMessage
  simp only [hlen, length_padBlocks]
  refine ⟨?formula, hle, ?atLeastOne, ?block16, ?block32⟩
  case formula => split <;> rfl
  case atLeastOne => split <;> exact Nat.succ_pos _
  case block16 => rintro rfl; split <;> omega
  case block32 => rintro rfl; split <;> omega

end Sys2Proof.Machine
end

section
/-! The state-machine form of the padding (41_hash.md R110): after `n` bytes of the message the walk has compressed its
full blocks and holds the bytes past them, so the end of the message makes it compress the last blocks. -/

namespace Sys2Proof.Machine

section
variable {α : Type} {comp : α → List Byte → α} {S : Inputs} {B : Nat} {H : α} {n : Nat} {t : PadWalk α}

theorem PadWalk.iterate_add (m n : Nat) (t : PadWalk α) :
    PadWalk.iterate comp S B (m + n) t = PadWalk.iterate comp S B n (PadWalk.iterate comp S B m t) := by
  induction m generalizing t with
  | zero => rw [Nat.zero_add, PadWalk.iterate]
  | succ m ih => rw [Nat.succ_add, PadWalk.iterate, PadWalk.iterate, ih]

theorem PadWalk.iterate_terminated (h : t.phase = .terminated) : PadWalk.iterate comp S B n t = t := by
  induction n with
  | zero => rfl
  | succ n ih => rw [PadWalk.iterate, PadWalk.next, h, ih]

/-- While the message goes on, a turn stores its next byte, and compresses the block when it is full (R110). -/
theorem PadWalk.next_of_byte (hphase : t.phase = .accumulating) (hcap : t.len ≠ Config.maxMessage)
    (hbyte : msgByte S t.len ≠ 0) :
    t.next comp S B =
      (let blk := t.blk.set t.idx (msgByte S t.len)
       if t.idx + 1 = B then { t with chain := comp t.chain blk, idx := 0, len := t.len + 1, blk := blk }
       else { t with idx := t.idx + 1, len := t.len + 1, blk := blk }) := by
  rw [PadWalk.next, hphase, if_neg (not_or.mpr ⟨hcap, hbyte⟩)]

/-- The walk after `n` bytes of the message. -/
structure Accumulated (comp : α → List Byte → α) (S : Inputs) (B : Nat) (H : α) (n : Nat) (t : PadWalk α) :
    Prop where
  phase : t.phase = .accumulating
  len : t.len = n
  idx : t.idx = n % B
  size : t.blk.length = B
  /-- The block buffer begins with the bytes past the full blocks. -/
  bytes : t.blk.take (n % B) = slice (hashedBytes S) (n / B * B) (n % B)
  chain : t.chain = (fullBlocks B (hashedBytes S) (n / B)).foldl comp H

theorem accumulated_start (comp : α → List Byte → α) (S : Inputs) (B : Nat) (H : α) :
    Accumulated comp S B H 0 (PadWalk.start B H) where
  phase := rfl
  len := rfl
  idx := (Nat.zero_mod B).symm
  size := length_zeros B
  bytes := by simp [slice]
  chain := by simp [fullBlocks, PadWalk.start]

/-- The terminated block written with the bytes as the walk's buffer holds them. -/
theorem terminated_eq_slice (B : Nat) (s : List Byte) :
    terminated B s (s.length % B) =
      (slice s (s.length / B * B) (s.length % B) ++ zeros (B - s.length % B)).set (s.length % B) 0x80 := by
  have hrest : (s.drop (s.length - s.length % B)).length ≤ s.length % B := by rw [List.length_drop]; omega
  rw [terminated, slice, Nat.div_mul_self_eq_mod_sub_self, List.take_of_length_le hrest]

theorem slice_succ {s : List Byte} {a k : Nat} (h : a + k < s.length) :
    slice s a (k + 1) = slice s a k ++ [s[a + k]] := by
  rw [slice, slice, List.take_succ_eq_append_getElem (by simp; omega), List.getElem_drop]

theorem take_succ_set {blk : List Byte} {i : Nat} (h : i < blk.length) (b : Byte) :
    (blk.set i b).take (i + 1) = blk.take i ++ [b] := by
  rw [List.take_succ_eq_append_getElem (by simpa), List.getElem_set_self, List.take_set_of_le (Nat.le_refl i)]

/-- A turn inside the message accumulates one more byte. -/
theorem Accumulated.next (hB : 0 < B) (h : Accumulated comp S B H n t) (hn : n < effLen S Config.maxMessage) :
    Accumulated comp S B H (n + 1) (t.next comp S B) := by
  obtain ⟨hphase, hlen, hidx, hsize, hbytes, hchain⟩ := h
  have hcap : effLen S Config.maxMessage ≤ Config.maxMessage := effLen_le S _
  have hmod : n % B < B := Nat.mod_lt n hB
  have hdiv : n / B * B + n % B = n := Nat.div_add_mod' n B
  have hin : n / B * B + n % B < (hashedBytes S).length := by rwa [hdiv, length_hashedBytes]
  have hget : (hashedBytes S)[n / B * B + n % B] = msgByte S n := by simp [hashedBytes, msgBytes, hdiv]
  have hstored : (t.blk.set (n % B) (msgByte S n)).take (n % B + 1) =
      slice (hashedBytes S) (n / B * B) (n % B + 1) := by
    rw [take_succ_set (by omega), hbytes, slice_succ hin, hget]
  rw [PadWalk.next_of_byte hphase (by omega) (hlen ▸ msgByte_ne_zero_of_lt_effLen hn), hidx, hlen]
  by_cases hfull : n % B + 1 = B
  · obtain ⟨hdiv', hmod'⟩ : (n + 1) / B = n / B + 1 ∧ (n + 1) % B = 0 :=
      (Nat.div_mod_unique hB).mpr ⟨by rw [Nat.mul_succ, Nat.mul_comm]; omega, hB⟩
    have hblock : t.blk.set (n % B) (msgByte S n) = slice (hashedBytes S) (n / B * B) B := by
      rwa [hfull, List.take_of_length_le (by simp [hsize])] at hstored
    simp only [hfull, if_true]
    exact ⟨hphase, rfl, hmod'.symm, by simpa, by simp [hmod', slice],
      by simp [hdiv', fullBlocks_succ, hchain, hblock]⟩
  · obtain ⟨hdiv', hmod'⟩ : (n + 1) / B = n / B ∧ (n + 1) % B = n % B + 1 :=
      (Nat.div_mod_unique hB).mpr ⟨by rw [Nat.mul_comm]; omega, by omega⟩
    simp only [hfull, if_false]
    exact ⟨hphase, rfl, hmod'.symm, by simpa, by rw [hmod', hdiv', hstored], by rw [hdiv', hchain]⟩

theorem accumulated_iterate (hB : 0 < B) (hn : n ≤ effLen S Config.maxMessage) :
    Accumulated comp S B H n (PadWalk.iterate comp S B n (PadWalk.start B H)) := by
  induction n with
  | zero => exact accumulated_start comp S B H
  | succ n ih =>
    rw [PadWalk.iterate_add]
    exact (ih (by omega)).next hB hn

/-- At the end of the message a turn compresses the last blocks and ends the walk (R110). -/
theorem Accumulated.next_end (h : Accumulated comp S B H (effLen S Config.maxMessage) t) :
    (t.next comp S B).chain = (padBlocks S B).blocks.foldl comp H ∧ (t.next comp S B).phase = .terminated ∧
      (t.next comp S B).len = effLen S Config.maxMessage := by
  obtain ⟨hphase, hlen, hidx, -, hbytes, hchain⟩ := h
  rw [← length_hashedBytes] at hlen hidx hbytes hchain ⊢
  have hend : (hashedBytes S).length = Config.maxMessage ∨ msgByte S (hashedBytes S).length = 0 := by
    rw [length_hashedBytes]
    exact (effLen_le S Config.maxMessage).eq_or_lt.imp_right msgByte_effLen
  rw [padBlocks_blocks, List.foldl_append, ← hchain, PadWalk.next, hphase, lastBlocks, terminated_eq_slice]
  simp only [hlen, if_pos hend, hidx, hbytes]
  by_cases hfit : (hashedBytes S).length % B ≥ B - 4
  · simp only [if_pos hfit]
    exact ⟨rfl, trivial, trivial⟩
  · simp only [if_neg hfit]
    exact ⟨rfl, trivial, trivial⟩

end

/-- Settles O56: the walk accumulates the message, compresses the last blocks, and stays as it is. -/
theorem padStateMachineFeedsPadBlocks : Obligations.PadStateMachineFeedsPadBlocks := by
  intro α comp S B H hB
  have hpos : 0 < B := by omega
  have hcap : effLen S Config.maxMessage ≤ Config.maxMessage := effLen_le S _
  obtain ⟨k, hk⟩ := Nat.exists_eq_add_of_le hcap
  have hturns : Config.maxMessage + 1 = effLen S Config.maxMessage + (1 + k) := by omega
  obtain ⟨hchain, hphase, hlen⟩ :=
    (accumulated_iterate (comp := comp) (S := S) (H := H) hpos (Nat.le_refl _)).next_end
  rw [padWalk, hturns, PadWalk.iterate_add, PadWalk.iterate_add, PadWalk.iterate, PadWalk.iterate,
    PadWalk.iterate_terminated hphase]
  exact ⟨hchain, hphase, hlen⟩

end Sys2Proof.Machine
end

section
/-! The hash commands from the CMD write to the result (41_hash.md R112, R115, R118). -/

namespace Sys2Proof.Machine

/-- The narrow IV is SEED0 with 32 zero bits above it (R31, R114). -/
theorem narrowIv_eq (S : Inputs) : narrowIv S = S.seed[0].setWidth 64 := by
  rw [narrowIv, pair64, BitVec.setWidth_eq_append (by decide), BitVec.cast_eq]
  rfl

theorem resultHashn_eq (S : Inputs) :
    resultHashn S =
      result64 ((padBlocks S Config.block16).blocks.foldl compressN (S.seed[0].setWidth 64))
        (padBlocks S Config.block16).len (padBlocks S Config.block16).blocks.length := by
  rw [resultHashn, narrowIv_eq, daviesMeyer]

/-- Settles O18: HASHN is accepted, and its completion commits `resultHashn`. -/
theorem hashnRunsToItsResult : Obligations.HashnRunsToItsResult := by
  intro s hidle
  refine ⟨_, exec_of_idle hidle .hashn, rfl, rfl, (complete_accept s.engine .hashn).trans ?_⟩
  rw [result, resultHashn_eq]
  rfl

/-- Settles O19: HASHWS is accepted, and its completion commits `resultHashws`. -/
theorem hashwsRunsToItsResult : Obligations.HashwsRunsToItsResult := by
  intro s hidle
  exact ⟨_, exec_of_idle hidle .hashws, rfl, rfl, complete_accept s.engine .hashws⟩

/-- Settles O20: HASHWC is accepted, and its completion commits `resultHashwc`. -/
theorem hashwcRunsToItsResult : Obligations.HashwcRunsToItsResult := by
  intro s hidle
  exact ⟨_, exec_of_idle hidle .hashwc, rfl, rfl, complete_accept s.engine .hashwc⟩

end Sys2Proof.Machine
end

section
/-! The MAC's buffer byte by byte (42_mac.md R126): the message, the terminator bit in byte 31, the bit length XORed into
byte 8. Its second half is a constant (R130). -/

namespace Sys2Proof.Machine

theorem byteAt_slice (b : List Byte) {k n j : Nat} (hj : j < n) : byteAt (slice b k n) j = byteAt b (k + j) := by
  simp [byteAt, slice, List.getD_eq_getElem?_getD, hj]

/-- Strings of one length are equal when their bytes are. -/
theorem eq_of_byteAt_eq {s t : List Byte} (hlen : s.length = t.length)
    (h : ∀ i, i < s.length → byteAt s i = byteAt t i) : s = t := by
  refine List.ext_getElem hlen fun i hs ht => ?_
  have hi := h i hs
  rwa [byteAt, byteAt, List.getD_eq_getElem _ _ hs, List.getD_eq_getElem _ _ ht] at hi

/-- Byte `j` of a stored word is byte `j` of the word (R12). -/
theorem byteAt_bytesLE32 (w : Word) {j : Nat} (hj : j < 4) : byteAt (bytesLE32 w) j = w.extractLsb' (8 * j) 8 := by
  interval_cases j <;> rfl

/-- The message below `L`, zeros after it (R126). -/
theorem byteAt_msgBytes_append_zeros (S : Inputs) (L n i : Nat) :
    byteAt (msgBytes S L ++ zeros n) i = if i < L then msgByte S i else 0 := by
  rw [byteAt_append_zeros, List.getD_eq_getElem?_getD]
  split
  next hi => simp [msgBytes, hi]
  next hi => rw [List.getElem?_eq_none (by simpa using hi), Option.getD_none]

theorem byteAt_macTerminate {buf : List Byte} (hlen : 31 < buf.length) (i : Nat) :
    byteAt (macTerminate buf) i = byteAt buf i ||| if i = 31 then 0x80 else 0 := by
  rw [macTerminate, byteAt, List.getD_eq_getElem?_getD, List.getElem?_set, if_pos hlen]
  by_cases hi : i = 31
  · subst hi; rfl
  · rw [if_neg (Ne.symm hi), if_neg hi]
    exact BitVec.or_zero.symm

/-- The bit length of a message of at most 31 bytes stands in byte 0 of its length word (R126). -/
theorem extractLsb'_bitLength {L : Nat} (hL : L < 32) (j : Nat) :
    (BitVec.ofNat 32 (8 * L)).extractLsb' (8 * j) 8 = if j = 0 then BitVec.ofNat 8 (8 * L) else 0 := by
  refine BitVec.eq_of_toNat_eq ?_
  rw [BitVec.extractLsb'_toNat, BitVec.toNat_ofNat, Nat.mod_eq_of_lt (show 8 * L < 2 ^ 32 by omega),
    Nat.shiftRight_eq_div_pow]
  by_cases hj : j = 0
  · rw [hj, if_pos rfl, BitVec.toNat_ofNat, Nat.mul_zero, Nat.pow_zero, Nat.div_one]
  · have hsmall : 8 * L < 2 ^ (8 * j) :=
      (show 8 * L < 2 ^ 8 by omega).trans_le (Nat.pow_le_pow_right (by decide) (by omega))
    rw [if_neg hj, Nat.div_eq_of_lt hsmall]
    rfl

/-- The length word is XORed into byte 8 alone (R126). -/
theorem byteAt_macLength {L : Nat} (hL : L < 32) {buf : List Byte} (hlen : 12 ≤ buf.length) (i : Nat) :
    byteAt (macLength L buf) i = byteAt buf i ^^^ if i = 8 then BitVec.ofNat 8 (8 * L) else 0 := by
  have htake : (buf.take 8).length = 8 := by rw [List.length_take]; omega
  have hwords (w : Word) : (buf.take 8 ++ bytesLE32 w).length = 12 := by
    rw [List.length_append, htake, length_bytesLE32]
  by_cases hbelow : i < 8
  · rw [macLength, if_neg (by omega), List.append_assoc, byteAt, byteAt, List.getD_append _ _ _ _ (by omega)]
    simp [List.getD_eq_getElem?_getD, hbelow]
  · obtain ⟨j, rfl⟩ := Nat.exists_eq_add_of_le (Nat.le_of_not_lt hbelow)
    by_cases hj : j < 4
    · have hword : byteAt (macLength L buf) (8 + j) =
          byteAt (bytesLE32 (le32 buf 8 ^^^ BitVec.ofNat 32 (8 * L))) j := by
        rw [macLength, byteAt, List.getD_append _ _ _ _ (by rw [hwords]; omega),
          List.getD_append_right _ _ _ _ (by omega), htake, Nat.add_sub_cancel_left, byteAt]
      rw [hword, byteAt_bytesLE32 _ hj, BitVec.extractLsb'_xor, extractLsb'_le32 _ _ hj, extractLsb'_bitLength hL]
      simp
    · rw [macLength, if_neg (by omega), byteAt, List.getD_append_right _ _ _ _ (by rw [hwords]; omega), hwords]
      simp [byteAt, List.getD_eq_getElem?_getD, show 12 + (8 + j - 12) = 8 + j by omega]

theorem length_macLength {L : Nat} {buf : List Byte} (hlen : 12 ≤ buf.length) :
    (macLength L buf).length = buf.length := by
  simp [macLength]; omega

@[simp] theorem length_macTerminate (buf : List Byte) : (macTerminate buf).length = buf.length := List.length_set

section
variable (S : Inputs) {L : Nat} (hL : L ≤ 15)
include hL

theorem length_macBuffer : (macBuffer S L).length = 32 := by
  rw [macBuffer, length_macLength] <;> simp <;> omega

/-- The terminator's byte holds no message byte, so its OR is an XOR (R126). -/
theorem byteAt_macBuffer (i : Nat) :
    byteAt (macBuffer S L) i =
      (if i < L then msgByte S i else 0) ^^^ (if i = 31 then 0x80 else 0) ^^^
        (if i = 8 then BitVec.ofNat 8 (8 * L) else 0) := by
  have hlen : (msgBytes S L ++ zeros (32 - L)).length = 32 := by simp; omega
  have hor : ((if i < L then msgByte S i else 0) ||| if i = 31 then 0x80 else 0) =
      (if i < L then msgByte S i else 0) ^^^ if i = 31 then 0x80 else 0 := by
    by_cases hi : i = 31
    · simp [show ¬ i < L by omega]
    · simp [hi]
  rw [macBuffer, byteAt_macLength (by omega) (by rw [length_macTerminate]; omega), byteAt_macTerminate (by omega),
    byteAt_msgBytes_append_zeros, hor]

/-- The buffer's second half is the same for every message (R130). -/
theorem slice_macBuffer_high : slice (macBuffer S L) 16 16 = zeros 15 ++ [0x80] := by
  have hlen : (slice (macBuffer S L) 16 16).length = 16 := length_slice (by rw [length_macBuffer S hL])
  have hconst : ∀ j, j < 16 → byteAt (zeros 15 ++ [0x80]) j = if j = 15 then 0x80 else 0 := by decide
  refine eq_of_byteAt_eq hlen fun j hj => ?_
  rw [hlen] at hj
  rw [byteAt_slice _ hj, byteAt_macBuffer S hL, hconst j hj]
  simp [show ¬ 16 + j < L by omega, show ¬ 16 + j = 8 by omega, show 16 + j = 31 ↔ j = 15 by omega]

end

/-- Settles O58: the buffer is laid out from at most 15 message bytes. -/
theorem macBufferLayout : Obligations.MacBufferLayout := by
  intro S
  have hL : effLen S 15 ≤ 15 := effLen_le S 15
  exact ⟨hL, length_macBuffer S hL, fun i _ => byteAt_macBuffer S hL i⟩

end Sys2Proof.Machine
end

section
/-! What a MAC reads (42_mac.md R125, R130), and MACN from the CMD write to the result (R129). -/

namespace Sys2Proof.Machine

/-- A message that agrees below `L` and ends there too, at a zero byte or at the cap, has the same length (R105). -/
theorem effLen_eq_of_agree {S T : Inputs} {cap : Nat} (hagree : ∀ i, i < effLen S cap → msgByte T i = msgByte S i)
    (hend : msgByte T (effLen S cap) = 0 ∨ effLen S cap = cap) : effLen T cap = effLen S cap := by
  refine (effLen_eq_iff T cap _).mpr ⟨effLen_le S cap, fun i hi => ?_, fun hlt => hend.resolve_right hlt.ne⟩
  rw [hagree i hi]
  exact msgByte_ne_zero_of_lt_effLen hi

/-- k2 depends on the secret only (R130). -/
theorem macK2_macBuffer (secret : Word64) (S : Inputs) {L : Nat} (hL : L ≤ 15) :
    macK2 secret (macBuffer S L) = speck64 secret (keyWords32 (zeros 15 ++ [0x80])) := by
  rw [macK2, slice_macBuffer_high S hL]

/-- Settles O59: a MAC reads the seed and the message below `L`, and k2 the buffer's constant half. -/
theorem macTruncation : Obligations.MacTruncation := by
  refine ⟨?truncation, ?k2⟩
  case truncation =>
    intro S T hseed hagree hend
    have hlen : effLen T Config.macCap = effLen S Config.macCap := effLen_eq_of_agree hagree hend
    have hbytes : msgBytes T (effLen S Config.macCap) = msgBytes S (effLen S Config.macCap) := msgBytes_congr hagree
    rw [result, result, resultMacn, resultMacn, hlen, macBuffer, macBuffer, hbytes, seed64_congr hseed]
  case k2 =>
    intro secret S T
    rw [macK2_macBuffer secret S (effLen_le S 15), macK2_macBuffer secret T (effLen_le T 15)]

/-- Settles O21: MACN is accepted, and its completion commits `resultMacn`, whose MAC is `mac_eq`'s. -/
theorem macnRunsToItsResult : Obligations.MacnRunsToItsResult := by
  intro s hidle
  refine ⟨_, exec_of_idle hidle .macn, rfl, rfl, (complete_accept s.engine .macn).trans ?_⟩
  rw [result, resultMacn, mac_eq]
  rfl

end Sys2Proof.Machine
end

section
/-! CMD writes (60_exceptions.md R136, R137, R140, R141): what each outcome of the decoder makes of them, and what the
seven commands and their completions leave unchanged. -/

namespace Sys2Proof.Machine

theorem writeWindow_cmd (v : Word) (s : State) :
    writeWindow 0x00C v s = .next (s.withEngine (s.engine.request v)) := by
  rw [writeWindow_eq, State.mapEngine, busStore_of_cmd rfl]

/-- BUSY is looked at before the word (R136, R141). -/
theorem request_of_busy {e : Engine} (h : e.status.busy = true) (v : Word) : e.request v = e.reject .busy := by
  simp [Engine.request, h]

theorem request_of_rsvBits {e : Engine} {v : Word} (h : e.status.busy = false) (hv : decode v = .rsvBits) :
    e.request v = e.reject .rsvBits := by
  simp [Engine.request, h, hv]

theorem request_of_illegalOp {e : Engine} {v : Word} (h : e.status.busy = false) (hv : decode v = .illegalOp) :
    e.request v = e.reject .illegalOp := by
  simp [Engine.request, h, hv]

/-- Settles O12: each cause fixes the outcome of the request, and each outcome is a rejection with its code. -/
theorem cmdWriteRejections : Obligations.CmdWriteRejections := by
  intro s v code hcause
  rw [writeWindow_cmd]
  rcases hcause with ⟨hbusy, rfl⟩ | ⟨hidle, hrsv, rfl⟩ | ⟨hidle, hrsv, hop, rfl⟩
  · rw [request_of_busy hbusy]
    rfl
  · rw [request_of_rsvBits hidle (decode_eq_rsvBits.mpr hrsv)]
    rfl
  · have hillegal : instrOfOpcode (opField v) = none := instrOfOpcode_eq_none.mpr hop
    rw [request_of_illegalOp hidle (decode_eq_illegalOp.mpr ⟨hrsv, hillegal⟩)]
    rfl

/-- A word with zero reserved bits and a command's opcode is that command's word (R70, R72). -/
theorem eq_encode_of_fields {v : Word} {i : Instr} (hrsv : rsvField v = 0) (hop : opField v = opcode i) :
    v = encode i := by
  rw [← rsvField_append_opField v, hrsv, hop, encode]

/-- Settles O13: the fields make the word the command's, and the idle engine accepts the command. -/
theorem cmdWriteAcceptance : Obligations.CmdWriteAcceptance := by
  intro s v i hidle hrsv hop
  have hdecode : decode v = .op i := decode_eq_op.mpr (eq_encode_of_fields hrsv hop)
  rw [writeWindow_cmd, request_of_decode hdecode, issue_of_idle hidle, hop]
  rfl

theorem exec_of_busy {s : State} (h : s.engine.status.busy = true) (i : Instr) :
    exec i s = .next (s.withEngine (s.engine.reject .busy)) := by
  rw [exec_eq_issue, State.mapEngine, issue_of_busy h]

/-- Settles O23: the busy engine rejects every command with code 3. -/
theorem commandWhileBusyIsRejected : Obligations.CommandWhileBusyIsRejected := fun i _ hbusy => exec_of_busy hbusy i

/-- The turn of a host that is about to write a command's word to CMD runs that command (R58, R71, R136). -/
theorem step_of_pendingCommand {s : State} {h : Nat} {a : HostAgent} {v : Word} {i : Instr}
    (hn : s.nextTurn = .host h) (ha : s.hosts[h]? = some a) (hp : a.pendingWrite = some (Reg.offset .cmd, v))
    (hv : decode v = .op i) : step s = exec i (s.popTurn.withHost h a.advance) :=
  calc step s = hostTurn h s.popTurn := step_of_host hn
    _ = writeWindow (Reg.offset .cmd) v (s.popTurn.withHost h a.advance) := hostTurn_of_pendingWrite ha hp
    _ = exec i (s.popTurn.withHost h a.advance) := writeWindow_cmd_of_decode hv _

/-- Settles O24: each of the three statements makes the same bus write at CMD. -/
theorem stepRunsDecodedCommand : Obligations.StepRunsDecodedCommand := by
  intro s h a i v hn ha hf
  rcases hf with ⟨hf, hv⟩ | ⟨hf, hv⟩ | hf
  · exact step_of_pendingCommand hn ha (by simp [HostAgent.pendingWrite, hf]) hv
  · have hp : a.pendingWrite = some (Reg.offset .cmd, a.value v) := by
      simp [HostAgent.pendingWrite, hf, accessLegal_iff, Reg.offset]
    exact step_of_pendingCommand hn ha hp hv
  · exact step_of_pendingCommand hn ha (by simp [HostAgent.pendingWrite, hf]) (decode_encode i)

/-- A completion commits a result, or does nothing (R138, R139). -/
theorem complete_cases (e : Engine) : e.complete = e ∨ ∃ r, e.complete = e.commit r := by
  cases hf : e.inflight with
  | none => exact .inl (complete_of_none hf)
  | some f => exact .inr ⟨_, complete_of_some hf⟩

section
variable (e : Engine)

@[simp] theorem complete_ie : e.complete.ie = e.ie := by
  rcases complete_cases e with h | ⟨r, h⟩ <;> simp [h]
@[simp] theorem complete_inputs : e.complete.inputs = e.inputs := by
  rcases complete_cases e with h | ⟨r, h⟩ <;> simp [h]
@[simp] theorem complete_err : e.complete.status.err = e.status.err := by
  rcases complete_cases e with h | ⟨r, h⟩ <;> simp [h]
@[simp] theorem complete_errcode : e.complete.status.errcode = e.status.errcode := by
  rcases complete_cases e with h | ⟨r, h⟩ <;> simp [h]
@[simp] theorem complete_lastop : e.complete.status.lastop = e.status.lastop := by
  rcases complete_cases e with h | ⟨r, h⟩ <;> simp [h]

end

/-- A CMD write of a command's word is rejected or accepted (R136). -/
theorem issue_cases (i : Instr) (e : Engine) : e.issue i = e.reject .busy ∨ e.issue i = e.accept i := by
  cases hb : e.status.busy with
  | true => exact .inl (issue_of_busy hb)
  | false => exact .inr (issue_of_idle hb)

section
variable (e : Engine) (i : Instr)

@[simp] theorem issue_ie : (e.issue i).ie = e.ie := by rcases issue_cases i e with h | h <;> simp [h]
@[simp] theorem issue_inputs : (e.issue i).inputs = e.inputs := by rcases issue_cases i e with h | h <;> simp [h]
@[simp] theorem issue_res : (e.issue i).res = e.res := by rcases issue_cases i e with h | h <;> simp [h]
@[simp] theorem issue_info : (e.issue i).info = e.info := by rcases issue_cases i e with h | h <;> simp [h]

end

/-- What a register other than STATUS reads depends on IE, the input registers, RES and INFO alone (R22 to R38). -/
theorem read_congr {d e : Engine} {r : Reg} (hr : r ≠ .status) (hie : d.ie = e.ie) (hinputs : d.inputs = e.inputs)
    (hres : d.res = e.res) (hinfo : d.info = e.info) : d.read r = e.read r := by
  cases r with
  | status => exact absurd rfl hr
  | ctrl => rw [Engine.read, Engine.read, hie]
  | seed | data | key | msg => rw [Engine.read, Engine.read, hinputs]
  | res => rw [Engine.read, Engine.read, hres]
  | info => rw [Engine.read, Engine.read, hinfo]
  | id | cmd | wcb | wcd => rfl

/-- A CMD write leaves what every aligned offset but STATUS reads (R137, R140). -/
theorem readWindow_issue (e : Engine) (i : Instr) {off : Nat} (h4 : off % 4 = 0) (hoff : off ≠ Reg.offset .status) :
    readWindow (e.issue i) off = readWindow e off := by
  cases hr : regAt off with
  | none => rw [readWindow_of_reserved hr, readWindow_of_reserved hr]
  | some r =>
    obtain rfl := offset_of_regAt h4 hr
    rw [readWindow_offset, readWindow_offset]
    exact read_congr (fun h => hoff (h ▸ rfl)) (issue_ie e i) (issue_inputs e i) (issue_res e i) (issue_info e i)

/-- Settles O22: the command is issued, and the window, STATUS and the later completion are each framed by a lemma. -/
theorem commandFrame : Obligations.CommandFrame := by
  intro i s t hexec
  rw [exec_eq_issue] at hexec
  cases hexec
  have hbusy (hb : s.engine.status.busy = true) : (s.engine.issue i).inflight = s.engine.inflight ∧
      (s.engine.issue i).status =
        { s.engine.status with err := true, errcode := (s.engine.issue i).status.errcode } := by
    rw [issue_of_busy hb]
    exact ⟨rfl, rfl⟩
  have hidle (hb : s.engine.status.busy = false) : (s.engine.issue i).status.err = s.engine.status.err ∧
      (s.engine.issue i).status.errcode = s.engine.status.errcode := by
    rw [issue_of_idle hb]
    exact ⟨rfl, rfl⟩
  exact ⟨rfl, rfl, issue_ie _ i, issue_inputs _ i, issue_res _ i, issue_info _ i,
    fun off h4 hoff => readWindow_issue _ i h4 hoff, hbusy, hidle,
    (complete_ie _).trans (issue_ie _ i), (complete_inputs _).trans (issue_inputs _ i),
    complete_err _, complete_errcode _, complete_lastop _⟩

end Sys2Proof.Machine
end

section
/-! When a step stops the machine (60_exceptions.md R135, R157; 20_memory.md R52; 30_encoding.md R77): never by a fault,
and by a refusal only at a host's statement outside the spec. -/

namespace Sys2Proof.Machine

/-- The statements of a host that have no meaning in its present state, with the names they are refused by: an access
outside the window (R52), and a taken branch to a label that the host's program lacks (R77). -/
inductive HostAgent.Refuses (a : HostAgent) : HostStmt → Refusal → Prop where
  | busRead {addr size x : Nat} (outside : windowOffset addr = none) :
      a.Refuses (.busRead addr size x) (.outsideWindow addr)
  | busWrite {addr size : Nat} {v : HostVal} (outside : windowOffset addr = none) :
      a.Refuses (.busWrite addr size v) (.outsideWindow addr)
  | bnz {x l : Nat} {m : Word} (taken : varOf a.vars x &&& m ≠ 0) (missing : HostStmt.label l ∉ a.prog) :
      a.Refuses (.bnz x m l) (.undefinedLabel l)
  | bz {x l : Nat} {m : Word} (taken : varOf a.vars x &&& m = 0) (missing : HostStmt.label l ∉ a.prog) :
      a.Refuses (.bz x m l) (.undefinedLabel l)

/-- A read in the window answers a next state, malformed or not (R54, R145). -/
theorem hostRead_eq_next (h : Nat) (a : HostAgent) (off size x : Nat) (s : State) :
    ∃ s', hostRead h a off size x s = .next s' := by
  by_cases hl : accessLegal off size = true
  · exact ⟨_, hostRead_of_legal hl⟩
  · exact ⟨_, hostRead_of_malformed hl⟩

/-- A write in the window answers a next state, malformed or not (R54, R145). -/
theorem hostWrite_eq_next (h : Nat) (a : HostAgent) (off size : Nat) (v : Word) (s : State) :
    ∃ s', hostWrite h a off size v s = .next s' := by
  by_cases hl : accessLegal off size = true
  · exact ⟨_, (hostWrite_of_legal hl).trans (writeWindow_eq ..)⟩
  · exact ⟨_, hostWrite_of_malformed hl⟩

/-- A branch answers a next state, unless it is taken and its label is missing (R77). -/
theorem hostBranch_eq_next {a : HostAgent} {l : Nat} {taken : Bool}
    (hok : ¬ (taken = true ∧ HostStmt.label l ∉ a.prog)) (h : Nat) (s : State) :
    ∃ s', hostBranch h a taken l s = .next s' := by
  unfold hostBranch
  by_cases ht : taken = true
  · obtain ⟨k, hk⟩ := Option.ne_none_iff_exists'.mp fun hk => hok ⟨ht, labelIndex_eq_none.mp hk⟩
    exact ⟨s.withHost h (a.goto k), by simp [ht, hk]⟩
  · exact ⟨s.withHost h a.advance, by simp [ht]⟩

theorem hostBranch_of_missing {a : HostAgent} {l : Nat} {taken : Bool} (ht : taken = true)
    (hl : HostStmt.label l ∉ a.prog) (h : Nat) (s : State) :
    hostBranch h a taken l s = .refused (.undefinedLabel l) := by
  simp [hostBranch, ht, labelIndex_eq_none.mpr hl]

theorem hostStmt_of_refuses {a : HostAgent} {t : HostStmt} {r : Refusal} (hr : a.Refuses t r) (h : Nat) (s : State) :
    hostStmt h a t s = .refused r := by
  cases hr with
  | busRead outside | busWrite outside => simp [hostStmt, outside]
  | bnz taken missing | bz taken missing => exact hostBranch_of_missing (decide_eq_true taken) missing h s

/-- A statement that is not refused answers a next state. -/
theorem hostStmt_eq_next {a : HostAgent} {t : HostStmt} (hok : ∀ r, ¬ a.Refuses t r) (h : Nat) (s : State) :
    ∃ s', hostStmt h a t s = .next s' := by
  cases t with
  | wr | cmd => exact hostWrite_eq_next ..
  | rd => exact hostRead_eq_next ..
  | label => exact ⟨_, rfl⟩
  | bnz x m l =>
    exact hostBranch_eq_next (fun ⟨ht, hl⟩ => hok _ (.bnz (of_decide_eq_true ht) hl)) h s
  | bz x m l =>
    exact hostBranch_eq_next (fun ⟨ht, hl⟩ => hok _ (.bz (of_decide_eq_true ht) hl)) h s
  | busRead addr size x =>
    obtain ⟨off, hw⟩ := Option.ne_none_iff_exists'.mp fun hw => hok _ (.busRead hw)
    simpa only [hostStmt, hw] using hostRead_eq_next h a off size x s
  | busWrite addr size v =>
    obtain ⟨off, hw⟩ := Option.ne_none_iff_exists'.mp fun hw => hok _ (.busWrite hw)
    simpa only [hostStmt, hw] using hostWrite_eq_next h a off size (a.value v) s
  | waitIrq =>
    by_cases hirq : s.engine.irq = true
    · exact ⟨_, if_pos hirq⟩
    · exact ⟨_, if_neg hirq⟩

/-- A statement answers a next state or is refused. -/
theorem hostStmt_outcomes (h : Nat) (a : HostAgent) (t : HostStmt) (s : State) :
    (∃ s', hostStmt h a t s = .next s') ∨ ∃ r, a.Refuses t r ∧ hostStmt h a t s = .refused r := by
  by_cases hr : ∃ r, a.Refuses t r
  · obtain ⟨r, hr⟩ := hr
    exact .inr ⟨r, hr, hostStmt_of_refuses hr h s⟩
  · exact .inl (hostStmt_eq_next (not_exists.mp hr) h s)

/-- The next turn is that of host `a`, whose next statement is refused as `r`. -/
def State.Refuses (s : State) (r : Refusal) : Prop :=
  ∃ h a t, s.nextTurn = .host h ∧ s.hosts[h]? = some a ∧ a.fetch = some t ∧ a.Refuses t r

theorem step_of_refuses {s : State} {r : Refusal} (hr : s.Refuses r) : step s = .refused r := by
  obtain ⟨h, a, t, hn, ha, hf, hr⟩ := hr
  rw [step_of_fetch hn ha hf]
  exact hostStmt_of_refuses hr h _

/-- A step answers a next state, or is the refused statement of the host whose turn it is; it never faults (R135,
R157). -/
theorem step_outcomes (s : State) : (∃ t, step s = .next t) ∨ ∃ r, s.Refuses r ∧ step s = .refused r := by
  cases hn : s.nextTurn with
  | engine | reset => exact .inl ⟨_, by rw [step_eq_takeTurn, hn, takeTurn]⟩
  | host h =>
    rw [step_of_host hn]
    cases ha : s.hosts[h]? with
    | none => exact .inl ⟨_, hostTurn_of_absent ha⟩
    | some a =>
      cases hf : a.fetch with
      | none => exact .inl ⟨_, hostTurn_of_stopped ha hf⟩
      | some t =>
        rw [hostTurn_of_fetch (s := s.popTurn) ha hf]
        rcases hostStmt_outcomes h a t s.popTurn with hnext | ⟨r, hr, hrefused⟩
        · exact .inl hnext
        · exact .inr ⟨r, ⟨h, a, t, hn, ha, hf, hr⟩, hrefused⟩

theorem step_ne_fault (s : State) (f : Fault) : step s ≠ .fault f := by
  rcases step_outcomes s with ⟨t, hs⟩ | ⟨r, -, hs⟩ <;> simp [hs]

theorem refuses_of_step {s : State} {r : Refusal} (hs : step s = .refused r) : s.Refuses r := by
  rcases step_outcomes s with ⟨t, ht⟩ | ⟨q, hq, ht⟩
  · simp [ht] at hs
  · rw [ht] at hs
    cases hs
    exact hq

/-- Settles O29: the outcomes of a step, with the refused statements told apart. -/
theorem stepStopsOnlyOutsideTheSpec : Obligations.StepStopsOnlyOutsideTheSpec := by
  refine ⟨fun s => ⟨step_ne_fault s, fun r hs => ?refused⟩, ?access, ?branch⟩
  case refused =>
    obtain ⟨h, a, t, hn, ha, hf, hr⟩ := refuses_of_step hs
    refine ⟨h, a, hn, ha, ?_⟩
    cases hr with
    | busRead outside => exact .inl ⟨_, _, rfl, windowOffset_eq_none.mp outside, .inl ⟨_, hf⟩⟩
    | busWrite outside => exact .inl ⟨_, _, rfl, windowOffset_eq_none.mp outside, .inr ⟨_, hf⟩⟩
    | bnz taken missing => exact .inr ⟨_, rfl, missing, .inl ⟨_, _, hf, taken⟩⟩
    | bz taken missing => exact .inr ⟨_, rfl, missing, .inr ⟨_, _, hf, taken⟩⟩
  case access =>
    intro s h a addr size hn ha hout hf
    have outside : windowOffset addr = none := windowOffset_eq_none.mpr hout
    rcases hf with ⟨x, hf⟩ | ⟨v, hf⟩
    · exact step_of_refuses ⟨h, a, _, hn, ha, hf, .busRead outside⟩
    · exact step_of_refuses ⟨h, a, _, hn, ha, hf, .busWrite outside⟩
  case branch =>
    intro s h a l hn ha missing hf
    rcases hf with ⟨x, m, hf, taken⟩ | ⟨x, m, hf, taken⟩
    · exact step_of_refuses ⟨h, a, _, hn, ha, hf, .bnz taken missing⟩
    · exact step_of_refuses ⟨h, a, _, hn, ha, hf, .bz taken missing⟩

end Sys2Proof.Machine
end

section
/-! The end of a command and of a run (60_exceptions.md R138, R139, R156, R157). -/

namespace Sys2Proof.Machine

/-- A host's turn leaves the turns to come. -/
theorem hostTurn_turns {h : Nat} {s s' : State} (hs : hostTurn h s = .next s') : s'.turns = s.turns := by
  cases ha : s.hosts[h]? with
  | none =>
    rw [hostTurn_of_absent ha] at hs
    cases hs
    rfl
  | some a =>
    cases hf : a.fetch with
    | none =>
      rw [hostTurn_of_stopped ha hf] at hs
      cases hs
      rfl
    | some t =>
      rw [hostTurn_of_fetch ha hf] at hs
      rcases hostStmt_cases hf hs with rfl | ⟨a', rfl⟩ | ⟨off, v, -, rfl⟩ <;> rfl

theorem step_turns_of_host {s t : State} {h : Nat} (hn : s.nextTurn = .host h) (hs : step s = .next t) :
    t.turns = s.turns.tail := by
  rw [step_of_host hn] at hs
  exact hostTurn_turns hs

theorem nextTurn_of_cons {s : State} {t : Turn} {ts : List Turn} (h : s.turns = t :: ts) : s.nextTurn = t := by
  simp [State.nextTurn, h]

/-- With a command in flight and no turn fixed, the completion is next (R138). -/
theorem nextTurn_of_inflight {s : State} {f : InFlight} (h : s.turns = []) (hf : s.engine.inflight = some f) :
    s.nextTurn = .engine := by
  simp [State.nextTurn, h, defaultTurn, hf]

theorem step_of_engine {s : State} (hn : s.nextTurn = .engine) :
    step s = .next (s.popTurn.mapEngine Engine.complete) := by
  rw [step_eq_takeTurn, hn, takeTurn]

theorem run_one (s : State) : run 1 s = step s := by
  simp only [run]
  cases step s <;> rfl

theorem run_succ_of_step {s t : State} (hs : step s = .next t) (n : Nat) : run (n + 1) s = run n t := by
  simp [run, hs]

/-- The engine as the completion of the command `f` leaves it: its result stands in RES and INFO, BUSY is 0, DONE is 1,
and nothing is in flight (R139). -/
def Engine.HasCompleted (f : InFlight) (e : Engine) : Prop :=
  e.inflight = none ∧ e.res = (result f.op f.snap).res ∧ e.info = (result f.op f.snap).info ∧
    e.status.busy = false ∧ e.status.done = true

theorem hasCompleted_complete {e : Engine} {f : InFlight} (hf : e.inflight = some f) : e.complete.HasCompleted f := by
  rw [complete_of_some hf]
  exact ⟨rfl, rfl, rfl, rfl, rfl⟩

/-- Some run of at most `n` steps completes the command `f`, or is refused. -/
def State.CompletesWithin (f : InFlight) (n : Nat) (s : State) : Prop :=
  ∃ k, k ≤ n ∧ ((∃ t, run k s = .next t ∧ t.engine.HasCompleted f) ∨ ∃ r, run k s = .refused r)

section
variable {s t : State} {f : InFlight} {r : Refusal} {n : Nat}

/-- The engine's turn completes the command in flight (R138, R139). -/
theorem completesWithin_of_engine (hn : s.nextTurn = .engine) (hf : s.engine.inflight = some f) :
    s.CompletesWithin f (n + 1) :=
  ⟨1, by omega, .inl ⟨_, (run_one s).trans (step_of_engine hn), hasCompleted_complete hf⟩⟩

theorem completesWithin_of_refused (hs : step s = .refused r) : s.CompletesWithin f (n + 1) :=
  ⟨1, by omega, .inr ⟨r, (run_one s).trans hs⟩⟩

theorem State.CompletesWithin.of_step (ht : t.CompletesWithin f n) (hs : step s = .next t) :
    s.CompletesWithin f (n + 1) := by
  obtain ⟨k, hk, hrun⟩ := ht
  refine ⟨k + 1, by omega, ?_⟩
  rwa [run_succ_of_step hs]

/-- A host's step leaves the command in flight (R41, R63). -/
theorem step_inflight_of_host {h : Nat} (hinv : s.Inv) (hn : s.nextTurn = .host h) (hs : step s = .next t)
    (hf : s.engine.inflight = some f) : t.engine.inflight = some f := by
  rcases inFlightCommandIsUndisturbed s t f hinv hs hf with ⟨-, -, hsame, -⟩ | ⟨hne, -⟩ | ⟨hne, -⟩
  · exact hsame
  · simp [hn] at hne
  · simp [hn] at hne

end

/-- Every turn of a host uses up one turn and leaves the command in flight, up to the engine's turn, which comes at the
latest when no turn is left (R138). -/
theorem completesWithin_turns {f : InFlight} (turns : List Turn) {s : State} (hturns : s.turns = turns) (hinv : s.Inv)
    (hf : s.engine.inflight = some f) (hreset : Turn.reset ∉ turns) : s.CompletesWithin f (turns.length + 1) := by
  induction turns generalizing s with
  | nil => exact completesWithin_of_engine (nextTurn_of_inflight hturns hf) hf
  | cons turn ts ih =>
    have hn := nextTurn_of_cons hturns
    cases turn with
    | engine => exact completesWithin_of_engine hn hf
    | reset => simp at hreset
    | host h =>
      rcases step_outcomes s with ⟨t, hs⟩ | ⟨r, -, hs⟩
      · have hrest : t.turns = ts := by rw [step_turns_of_host hn hs, hturns, List.tail_cons]
        have ht := ih hrest (stepKeepsTheInvariant s t hinv hs) (step_inflight_of_host hinv hn hs hf)
          (List.not_mem_of_not_mem_cons hreset)
        exact ht.of_step hs
      · exact completesWithin_of_refused hs

/-- Settles O45, by induction on the turns to come. -/
theorem acceptedCommandCompletes : Obligations.AcceptedCommandCompletes := by
  intro s f hinv hf hreset
  exact completesWithin_turns s.turns rfl hinv hf hreset

/-- A host without a next statement has no step to take. -/
theorem ready_of_stopped {a : HostAgent} (h : a.fetch = none) (irq : Bool) : a.ready irq = false := by
  simp [HostAgent.ready, h]

/-- With no turn fixed, nothing in flight and every host stopped, the engine has the turn (R156). -/
theorem nextTurn_of_stopped {s : State} (h : s.turns = []) (hf : s.engine.inflight = none)
    (hstopped : ∀ a ∈ s.hosts, a.fetch = none) : s.nextTurn = .engine := by
  have hready : firstReady s = none := List.findIdx?_eq_none_iff.mpr fun a ha => ready_of_stopped (hstopped a ha) _
  simp [State.nextTurn, h, defaultTurn, hf, hready]

theorem popTurn_of_nil {s : State} (h : s.turns = []) : s.popTurn = s := by
  rw [State.popTurn, h, List.tail_nil, ← h]

/-- Settles O60: the engine has the turn, and nothing is in flight that it could complete. -/
theorem endedRunRests : Obligations.EndedRunRests := by
  intro s hinv ⟨hstopped, hidle⟩ hturns
  have hf : s.engine.inflight = none :=
    Option.not_isSome_iff_eq_none.mp (by simp [← hinv.engine.busy_inflight, hidle])
  rw [step_of_engine (nextTurn_of_stopped hturns hf hstopped), popTurn_of_nil hturns, State.mapEngine,
    complete_of_none hf]
  rfl

end Sys2Proof.Machine
end

section
/-! Commands issued straight after reset (70_reset_and_hazards.md R162): they run on registers that all read 0. -/

namespace Sys2Proof.Machine

/-- A command issued straight after reset is accepted, and completes on the zero inputs (R162). -/
theorem exec_reset_completes (i : Instr) :
    ∃ t, exec i State.reset = .next t ∧
      t.engine.complete = (Engine.reset.accept i).commit (result i Inputs.zero) :=
  ⟨_, exec_of_idle rfl i, complete_accept Engine.reset i⟩

theorem resultEnc64_zero : resultEnc64 Inputs.zero = result64 (speck64 0 Quad.zero) 0 1 := by
  have hdata : dataBlock64 Inputs.zero = 0 := by decide
  have hkey : keyQuad32 Inputs.zero = Quad.zero := rfl
  rw [resultEnc64, hdata, hkey]

/-- A first byte of zero ends the message before it begins (R105). -/
theorem effLen_of_first_zero {S : Inputs} (h : msgByte S 0 = 0) (cap : Nat) : effLen S cap = 0 :=
  (effLen_eq_iff S cap 0).mpr ⟨Nat.zero_le cap, fun _ hi => absurd hi (Nat.not_lt_zero _), fun _ => h⟩

/-- The empty string pads to one narrow block, which holds the terminator alone (R106). -/
theorem padBlocks_of_first_zero {S : Inputs} (h : msgByte S 0 = 0) :
    padBlocks S Config.block16 = { len := 0, blocks := [0x80 :: zeros 15] } := by
  simp only [padBlocks, effLen_of_first_zero h]
  rfl

/-- The compression step from chaining value 0 is the cipher alone: the feed-forward adds nothing (R112). -/
theorem compressN_zero (blk : List Byte) : compressN 0 blk = speck64 0 (keyWords32 blk) := BitVec.zero_xor

theorem resultHashn_zero :
    resultHashn Inputs.zero = result64 (speck64 0 { q0 := 0x80, q1 := 0, q2 := 0, q3 := 0 }) 0 1 := by
  have hpad : padBlocks Inputs.zero Config.block16 = { len := 0, blocks := [0x80 :: zeros 15] } :=
    padBlocks_of_first_zero rfl
  have hiv : narrowIv Inputs.zero = 0 := by decide
  have hkey : keyWords32 (0x80 :: zeros 15) = { q0 := 0x80, q1 := 0, q2 := 0, q3 := 0 } := by decide
  rw [resultHashn, hpad, hiv, daviesMeyer, List.foldl_cons, List.foldl_nil, compressN_zero, hkey]
  rfl

/-- Settles O34: the zero inputs are zero cipher operands for ENC64, and the empty string under IV 0 for HASHN. -/
theorem commandsStraightAfterReset : Obligations.CommandsStraightAfterReset := by
  obtain ⟨-, hread, -⟩ := resetStateValues
  obtain ⟨tenc, hexecEnc, henc⟩ := exec_reset_completes .enc64
  obtain ⟨thash, hexecHash, hhash⟩ := exec_reset_completes .hashn
  rw [result, resultEnc64_zero] at henc
  rw [result, resultHashn_zero] at hhash
  refine ⟨fun i => ?_, ?_, ⟨tenc, hexecEnc, ?_⟩, ⟨thash, hexecHash, ?_, ?_⟩⟩
  · exact hread _ (by omega) (by omega) (by omega)
  · exact hread _ (by decide) (by decide) (by decide)
  · exact congrArg Engine.res henc
  · exact congrArg Engine.info hhash
  · exact congrArg Engine.res hhash

end Sys2Proof.Machine
end

section
/-! The two steps in which no host takes part: the completion of the command in flight (60_exceptions.md R138, R139)
and reset (70_reset_and_hazards.md R160). -/

namespace Sys2Proof.Machine

theorem nextTurn_of_head {s : State} {t : Turn} (h : s.turns.head? = some t) : s.nextTurn = t := by
  obtain ⟨ts, hts⟩ := List.head?_eq_some_iff.mp h
  exact nextTurn_of_cons hts

theorem step_of_reset {s : State} (hn : s.nextTurn = .reset) : step s = .next (s.popTurn.withEngine Engine.reset) := by
  rw [step_eq_takeTurn, hn, takeTurn]

/-- The engine's turn with a command in flight commits that command's result (R139). -/
theorem step_of_completion {s : State} {f : InFlight} (hn : s.nextTurn = .engine) (hf : s.engine.inflight = some f) :
    step s = .next (s.popTurn.withEngine (s.engine.commit (result f.op f.snap))) := by
  rw [step_of_engine hn, State.mapEngine, popTurn_engine, complete_of_some hf]

/-- Settles O14: the turn is the engine's, fixed or by the default order, and its completion is one commit. -/
theorem completionCommitsInOneStep : Obligations.CompletionCommitsInOneStep := by
  intro s f hf hturn
  have hn : s.nextTurn = .engine := by
    rcases hturn with hhead | hnil
    · exact nextTurn_of_head hhead
    · exact nextTurn_of_inflight hnil hf
  exact step_of_completion hn hf

/-- Settles O33: the reset turn replaces the engine and nothing else. -/
theorem resetDiscardsTheCommand : Obligations.ResetDiscardsTheCommand :=
  fun _ hn => step_of_reset hn

end Sys2Proof.Machine
end
